-- ==== Sys2Proof/Word.lean ====
section
/-! DEFINITION. The word types of the core: bytes, 16-bit words and register indexes. -/

namespace Sys2Proof

/-- A byte: one general register, flag slot, timer or memory cell (10_state.md R30; 20_memory.md R70). -/
abbrev Byte := BitVec 8

/-- A 16-bit word: an instruction word, `I`, `pc` or a return address (10_state.md R36, R39, R40; 30_encoding.md R100). -/
abbrev Word := BitVec 16

/-- The index of a general register or flag slot, 0x0..0xF (10_state.md R32, R43). -/
abbrev VReg := Fin 16

/-- The index of `VF`, the register that is also the flag (10_state.md R34). -/
abbrev vF : VReg := 15

end Sys2Proof
end

