-- ==== Sys2Proof/Syntax.lean ====
section
/-! DEFINITION. The 38 instructions of 30_encoding.md R112 (spec/opcode_table.json), one constructor a row, in the table's order. -/

namespace Sys2Proof

/-- The instructions. `x` and `y` are register indexes, `nn` the immediate byte, `nnn` the 12-bit address,
`n` the sprite row count, a natural number below 16 (30_encoding.md R107; the bound is `Instr.wellFormed`). -/
inductive Instr where
  /-- `0000` NOP. -/
  | nop
  /-- `00E0` CLS. -/
  | cls
  /-- `00EE` RET. -/
  | ret
  /-- `00FF` HIGH. -/
  | high
  /-- `1NNN` JP NNN. -/
  | jp (nnn : BitVec 12)
  /-- `2NNN` CALL NNN. -/
  | call (nnn : BitVec 12)
  /-- `3XNN` SE Vx, NN. -/
  | seImm (x : VReg) (nn : Byte)
  /-- `4XNN` SNE Vx, NN. -/
  | sneImm (x : VReg) (nn : Byte)
  /-- `5XY0` SE Vx, Vy. -/
  | seReg (x y : VReg)
  /-- `6XNN` LD Vx, NN. -/
  | ldImm (x : VReg) (nn : Byte)
  /-- `7XNN` ADD Vx, NN. -/
  | addImm (x : VReg) (nn : Byte)
  /-- `8XY0` LD Vx, Vy. -/
  | ldReg (x y : VReg)
  /-- `8XY1` OR Vx, Vy. -/
  | orReg (x y : VReg)
  /-- `8XY2` AND Vx, Vy. -/
  | andReg (x y : VReg)
  /-- `8XY3` XOR Vx, Vy. -/
  | xorReg (x y : VReg)
  /-- `8XY4` ADD Vx, Vy. -/
  | addReg (x y : VReg)
  /-- `8XY5` SUB Vx, Vy. -/
  | subReg (x y : VReg)
  /-- `8XY6` SHR Vx, Vy. -/
  | shr (x y : VReg)
  /-- `8XY7` SUBN Vx, Vy. -/
  | subnReg (x y : VReg)
  /-- `8XYE` SHL Vx, Vy. -/
  | shl (x y : VReg)
  /-- `9XY0` SNE Vx, Vy. -/
  | sneReg (x y : VReg)
  /-- `ANNN` LD I, NNN. -/
  | ldI (nnn : BitVec 12)
  /-- `BNNN` JP V0, NNN. -/
  | jpV0 (nnn : BitVec 12)
  /-- `CXNN` RND Vx, NN. -/
  | rnd (x : VReg) (nn : Byte)
  /-- `DXYN` DRW Vx, Vy, N. -/
  | drw (x y : VReg) (n : Nat)
  /-- `EX9E` SKP Vx. -/
  | skp (x : VReg)
  /-- `EXA1` SKNP Vx. -/
  | sknp (x : VReg)
  /-- `FX07` LD Vx, DT. -/
  | ldVxDt (x : VReg)
  /-- `FX0A` LD Vx, K. -/
  | ldVxK (x : VReg)
  /-- `FX15` LD DT, Vx. -/
  | ldDtVx (x : VReg)
  /-- `FX18` LD ST, Vx. -/
  | ldStVx (x : VReg)
  /-- `FX1E` ADD I, Vx. -/
  | addI (x : VReg)
  /-- `FX29` LD F, Vx. -/
  | ldF (x : VReg)
  /-- `FX33` LD B, Vx. -/
  | ldB (x : VReg)
  /-- `FX55` LD [I], Vx. -/
  | ldMemVx (x : VReg)
  /-- `FX65` LD Vx, [I]. -/
  | ldVxMem (x : VReg)
  /-- `FX75` LD R, Vx. -/
  | ldRVx (x : VReg)
  /-- `FX85` LD Vx, R. -/
  | ldVxR (x : VReg)
  deriving DecidableEq, Repr

end Sys2Proof
end

