-- ==== Sys2Proof/Decode.lean ====
section
/-! DEFINITION. Decoding a 16-bit word by the opcode table of 30_encoding.md R112, rejecting by name, the encoder, and the assembler spelling. -/

namespace Sys2Proof

/-- Why bytes are no instruction. -/
inductive DecodeError where
  /-- The word matches no row of the table (30_encoding.md R105, R114). -/
  | unknownInstruction (w : Word)
  /-- Fewer than the two bytes of an instruction were given (30_encoding.md R106). -/
  | shortWindow
  deriving DecidableEq, Repr

/-- One row of the opcode table: a word is the row's when `w &&& mask = pattern` (30_encoding.md R105), and `build`
reads its operands. -/
structure OpRow where
  mask : Word
  pattern : Word
  build : Word → Instr

/-- The opcode class `w[15:12]` (30_encoding.md R100). -/
def classOf (w : Word) : BitVec 4 := w.extractLsb' 12 4

/-- The field `X`, `w[11:8]` (30_encoding.md R100). -/
def fieldX (w : Word) : VReg := Fin.ofNat 16 (w.extractLsb' 8 4).toNat

/-- The field `Y`, `w[7:4]` (30_encoding.md R100). -/
def fieldY (w : Word) : VReg := Fin.ofNat 16 (w.extractLsb' 4 4).toNat

/-- The field `N`, `w[3:0]`, a count (30_encoding.md R100, R107). -/
def fieldN (w : Word) : Nat := (w.extractLsb' 0 4).toNat

/-- The field `NN`, `w[7:0]` (30_encoding.md R100). -/
def fieldNN (w : Word) : Byte := w.extractLsb' 0 8

/-- The field `NNN`, `w[11:0]` (30_encoding.md R100). -/
def fieldNNN (w : Word) : BitVec 12 := w.extractLsb' 0 12

/-- The opcode table, row by row as 30_encoding.md R112 has it. UNVERIFIED: the spec takes the bit patterns from general
knowledge (G1, G2); log 12. -/
def opcodeRows : List OpRow :=
  [⟨0xFFFF, 0x0000, fun _ => .nop⟩,
   ⟨0xFFFF, 0x00E0, fun _ => .cls⟩,
   ⟨0xFFFF, 0x00EE, fun _ => .ret⟩,
   ⟨0xFFFF, 0x00FF, fun _ => .high⟩,
   ⟨0xF000, 0x1000, fun w => .jp (fieldNNN w)⟩,
   ⟨0xF000, 0x2000, fun w => .call (fieldNNN w)⟩,
   ⟨0xF000, 0x3000, fun w => .seImm (fieldX w) (fieldNN w)⟩,
   ⟨0xF000, 0x4000, fun w => .sneImm (fieldX w) (fieldNN w)⟩,
   ⟨0xF00F, 0x5000, fun w => .seReg (fieldX w) (fieldY w)⟩,
   ⟨0xF000, 0x6000, fun w => .ldImm (fieldX w) (fieldNN w)⟩,
   ⟨0xF000, 0x7000, fun w => .addImm (fieldX w) (fieldNN w)⟩,
   ⟨0xF00F, 0x8000, fun w => .ldReg (fieldX w) (fieldY w)⟩,
   ⟨0xF00F, 0x8001, fun w => .orReg (fieldX w) (fieldY w)⟩] ++
  [⟨0xF00F, 0x8002, fun w => .andReg (fieldX w) (fieldY w)⟩,
   ⟨0xF00F, 0x8003, fun w => .xorReg (fieldX w) (fieldY w)⟩,
   ⟨0xF00F, 0x8004, fun w => .addReg (fieldX w) (fieldY w)⟩,
   ⟨0xF00F, 0x8005, fun w => .subReg (fieldX w) (fieldY w)⟩,
   ⟨0xF00F, 0x8006, fun w => .shr (fieldX w) (fieldY w)⟩,
   ⟨0xF00F, 0x8007, fun w => .subnReg (fieldX w) (fieldY w)⟩,
   ⟨0xF00F, 0x800E, fun w => .shl (fieldX w) (fieldY w)⟩,
   ⟨0xF00F, 0x9000, fun w => .sneReg (fieldX w) (fieldY w)⟩,
   ⟨0xF000, 0xA000, fun w => .ldI (fieldNNN w)⟩,
   ⟨0xF000, 0xB000, fun w => .jpV0 (fieldNNN w)⟩,
   ⟨0xF000, 0xC000, fun w => .rnd (fieldX w) (fieldNN w)⟩,
   ⟨0xF000, 0xD000, fun w => .drw (fieldX w) (fieldY w) (fieldN w)⟩] ++
  [⟨0xF0FF, 0xE09E, fun w => .skp (fieldX w)⟩,
   ⟨0xF0FF, 0xE0A1, fun w => .sknp (fieldX w)⟩,
   ⟨0xF0FF, 0xF007, fun w => .ldVxDt (fieldX w)⟩,
   ⟨0xF0FF, 0xF00A, fun w => .ldVxK (fieldX w)⟩,
   ⟨0xF0FF, 0xF015, fun w => .ldDtVx (fieldX w)⟩,
   ⟨0xF0FF, 0xF018, fun w => .ldStVx (fieldX w)⟩,
   ⟨0xF0FF, 0xF01E, fun w => .addI (fieldX w)⟩,
   ⟨0xF0FF, 0xF029, fun w => .ldF (fieldX w)⟩,
   ⟨0xF0FF, 0xF033, fun w => .ldB (fieldX w)⟩,
   ⟨0xF0FF, 0xF055, fun w => .ldMemVx (fieldX w)⟩,
   ⟨0xF0FF, 0xF065, fun w => .ldVxMem (fieldX w)⟩,
   ⟨0xF0FF, 0xF075, fun w => .ldRVx (fieldX w)⟩,
   ⟨0xF0FF, 0xF085, fun w => .ldVxR (fieldX w)⟩]

/-- Whether a word is a row's (30_encoding.md R105). -/
def OpRow.fits (w : Word) (r : OpRow) : Bool := (w &&& r.mask) == r.pattern

/-- The row of a word, if the table has one (30_encoding.md R105; the rows are disjoint). -/
def rowOf (w : Word) : Option OpRow := opcodeRows.find? (OpRow.fits w)

/-- The instruction of a word (30_encoding.md R105). With `SYS_AS_NOP` every word of class 0 that no row names is a NOP
too (R113); any other word is rejected by name (R114). -/
def decodeWord (sysAsNop : Bool) (w : Word) : Except DecodeError Instr :=
  match rowOf w with
  | some r => .ok (r.build w)
  | none => if sysAsNop && classOf w == 0 then .ok .nop else .error (.unknownInstruction w)

/-- The word that two bytes form: the byte at the lower address is bits 15:8 (20_memory.md R75; 30_encoding.md R103). -/
def wordOfBytes (hi lo : Byte) : Word := hi ++ lo

/-- The instruction at the head of a byte sequence. -/
def decodeBytes (sysAsNop : Bool) : List Byte → Except DecodeError Instr
  | hi :: lo :: _ => decodeWord sysAsNop (wordOfBytes hi lo)
  | _ => .error .shortWindow

/-- The two bytes of a word as memory stores them, the one at the lower address first (20_memory.md R75). -/
def bytesOfWord (w : Word) : List Byte := [w.extractLsb' 8 8, w.extractLsb' 0 8]

/-- The word that the opcode table's bit numbering gives a row of `nbits` bits: the first 16 bits of `w`, and zero for
every bit at or above `nbits` (log 20). -/
def tableWord (nbits w : Nat) : Word := BitVec.ofNat 16 (w % 2 ^ nbits)

/-- The instruction the decoder reads from a table word, its two bytes laid out as memory stores them, with `SYS_AS_NOP`
at its default (log 20). -/
def decodeTableWord (nbits w : Nat) : Option Instr :=
  match decodeBytes false (bytesOfWord (tableWord nbits w)) with
  | .ok i => some i
  | .error _ => none

/-! The encoder, one function for each format of 30_encoding.md R106. -/

/-- A register index as its 4-bit field. -/
def nibble (x : VReg) : BitVec 4 := BitVec.ofNat 4 x.val

/-- Format A, `cccc NNNN NNNN NNNN`. -/
def encodeA (c : BitVec 4) (nnn : BitVec 12) : Word := c ++ nnn

/-- Format XI, `cccc XXXX NNNN NNNN`. -/
def encodeXI (c : BitVec 4) (x : VReg) (nn : Byte) : Word := c ++ nibble x ++ nn

/-- Format XY, `cccc XXXX YYYY ssss`; and format XYN, whose last nibble is the count. -/
def encodeXY (c : BitVec 4) (x y : VReg) (sub : BitVec 4) : Word := c ++ nibble x ++ nibble y ++ sub

/-- Format XS, `cccc XXXX ssss ssss`. -/
def encodeXS (c : BitVec 4) (x : VReg) (sub : Byte) : Word := c ++ nibble x ++ sub

/-- The word of a well-formed instruction (30_encoding.md R106, R112). -/
def encode : Instr → Word
  | .nop => 0x0000
  | .cls => 0x00E0
  | .ret => 0x00EE
  | .high => 0x00FF
  | .jp nnn => encodeA 0x1 nnn
  | .call nnn => encodeA 0x2 nnn
  | .seImm x nn => encodeXI 0x3 x nn
  | .sneImm x nn => encodeXI 0x4 x nn
  | .seReg x y => encodeXY 0x5 x y 0x0
  | .ldImm x nn => encodeXI 0x6 x nn
  | .addImm x nn => encodeXI 0x7 x nn
  | .ldReg x y => encodeXY 0x8 x y 0x0
  | .orReg x y => encodeXY 0x8 x y 0x1
  | .andReg x y => encodeXY 0x8 x y 0x2
  | .xorReg x y => encodeXY 0x8 x y 0x3
  | .addReg x y => encodeXY 0x8 x y 0x4
  | .subReg x y => encodeXY 0x8 x y 0x5
  | .shr x y => encodeXY 0x8 x y 0x6
  | .subnReg x y => encodeXY 0x8 x y 0x7
  | .shl x y => encodeXY 0x8 x y 0xE
  | .sneReg x y => encodeXY 0x9 x y 0x0
  | .ldI nnn => encodeA 0xA nnn
  | .jpV0 nnn => encodeA 0xB nnn
  | .rnd x nn => encodeXI 0xC x nn
  | .drw x y n => encodeXY 0xD x y (BitVec.ofNat 4 n)
  | .skp x => encodeXS 0xE x 0x9E
  | .sknp x => encodeXS 0xE x 0xA1
  | .ldVxDt x => encodeXS 0xF x 0x07
  | .ldVxK x => encodeXS 0xF x 0x0A
  | .ldDtVx x => encodeXS 0xF x 0x15
  | .ldStVx x => encodeXS 0xF x 0x18
  | .addI x => encodeXS 0xF x 0x1E
  | .ldF x => encodeXS 0xF x 0x29
  | .ldB x => encodeXS 0xF x 0x33
  | .ldMemVx x => encodeXS 0xF x 0x55
  | .ldVxMem x => encodeXS 0xF x 0x65
  | .ldRVx x => encodeXS 0xF x 0x75
  | .ldVxR x => encodeXS 0xF x 0x85

/-! The assembler spelling of each row (30_encoding.md R116). No pseudo-instruction exists, and the optional `Vy` of `SHR`
and `SHL` is always written (R117). -/

/-- A hexadecimal digit (00_scope.md R13). -/
def hexDigit (n : Nat) : Char := "0123456789ABCDEF".toList.getD n '0'

/-- A number as `digits` hexadecimal digits, leading zeros kept (log 24). -/
def hexDigits : Nat → Nat → List Char
  | 0, _ => []
  | digits + 1, n => hexDigits digits (n / 16) ++ [hexDigit (n % 16)]

/-- A hexadecimal operand (30_encoding.md R116; 00_scope.md R13). -/
def hexText (digits n : Nat) : String := "0x" ++ String.ofList (hexDigits digits n)

/-- `V0` to `VF` (30_encoding.md R116). -/
def regText (x : VReg) : String := "V" ++ String.ofList (hexDigits 1 x.val)

/-- An instruction in the spec's assembler syntax (30_encoding.md R112, R116).
DESIGN CHOICE: `NN` has two hexadecimal digits and `NNN` three, and the row count `N` of `DRW`, whose spelling R116 leaves
open, is a hexadecimal number of one digit (log 24). -/
def asmText : Instr → String
  | .nop => "NOP"
  | .cls => "CLS"
  | .ret => "RET"
  | .high => "HIGH"
  | .jp nnn => "JP " ++ hexText 3 nnn.toNat
  | .call nnn => "CALL " ++ hexText 3 nnn.toNat
  | .seImm x nn => "SE " ++ regText x ++ ", " ++ hexText 2 nn.toNat
  | .sneImm x nn => "SNE " ++ regText x ++ ", " ++ hexText 2 nn.toNat
  | .seReg x y => "SE " ++ regText x ++ ", " ++ regText y
  | .ldImm x nn => "LD " ++ regText x ++ ", " ++ hexText 2 nn.toNat
  | .addImm x nn => "ADD " ++ regText x ++ ", " ++ hexText 2 nn.toNat
  | .ldReg x y => "LD " ++ regText x ++ ", " ++ regText y
  | .orReg x y => "OR " ++ regText x ++ ", " ++ regText y
  | .andReg x y => "AND " ++ regText x ++ ", " ++ regText y
  | .xorReg x y => "XOR " ++ regText x ++ ", " ++ regText y
  | .addReg x y => "ADD " ++ regText x ++ ", " ++ regText y
  | .subReg x y => "SUB " ++ regText x ++ ", " ++ regText y
  | .shr x y => "SHR " ++ regText x ++ ", " ++ regText y
  | .subnReg x y => "SUBN " ++ regText x ++ ", " ++ regText y
  | .shl x y => "SHL " ++ regText x ++ ", " ++ regText y
  | .sneReg x y => "SNE " ++ regText x ++ ", " ++ regText y
  | .ldI nnn => "LD I, " ++ hexText 3 nnn.toNat
  | .jpV0 nnn => "JP V0, " ++ hexText 3 nnn.toNat
  | .rnd x nn => "RND " ++ regText x ++ ", " ++ hexText 2 nn.toNat
  | .drw x y n => "DRW " ++ regText x ++ ", " ++ regText y ++ ", " ++ hexText 1 n
  | .skp x => "SKP " ++ regText x
  | .sknp x => "SKNP " ++ regText x
  | .ldVxDt x => "LD " ++ regText x ++ ", DT"
  | .ldVxK x => "LD " ++ regText x ++ ", K"
  | .ldDtVx x => "LD DT, " ++ regText x
  | .ldStVx x => "LD ST, " ++ regText x
  | .addI x => "ADD I, " ++ regText x
  | .ldF x => "LD F, " ++ regText x
  | .ldB x => "LD B, " ++ regText x
  | .ldMemVx x => "LD [I], " ++ regText x
  | .ldVxMem x => "LD " ++ regText x ++ ", [I]"
  | .ldRVx x => "LD R, " ++ regText x
  | .ldVxR x => "LD " ++ regText x ++ ", R"

end Sys2Proof
end

