-- ==== Sys2Proof/Config.lean ====
section
/-! DEFINITION. The model parameters of 00_scope.md R10 to R12 as plain data, the font table, and the free random byte. -/

namespace Sys2Proof

/-- `SHIFT_SOURCE` of 00_scope.md R12: which register `8XY6` and `8XYE` shift. -/
inductive ShiftSource where
  | vx
  | vy
  deriving DecidableEq, Repr

/-- `VF_ORDER` of 00_scope.md R12: which of flag and result VF keeps when it is also the destination (42_alu.md R161). -/
inductive VfOrder where
  | flagLast
  | resultLast
  deriving DecidableEq, Repr

/-- `LORES_DXY0` of 00_scope.md R12: what `DXY0` does in low resolution (44_display.md R206). -/
inductive LoresDxy0 where
  | fault
  | zeroRows
  | sprite16
  deriving DecidableEq, Repr

/-- The parameters of the model (00_scope.md R11, R12). They are fixed for a machine: no instruction and no host
command changes them (10_state.md R31). `RAND` is not here: it is the free value `Config.freeDraw`. -/
structure Config where
  /-- `MEM_SIZE`, the memory capacity in bytes (R11). -/
  memSize : Nat
  /-- `SYS_AS_NOP` (30_encoding.md R113). -/
  sysAsNop : Bool
  /-- `SHIFT_SOURCE` (42_alu.md R170, R172). -/
  shiftSource : ShiftSource
  /-- `VF_ORDER` (42_alu.md R161). -/
  vfOrder : VfOrder
  /-- `LOGIC_CLEARS_VF` (42_alu.md R165 to R167). -/
  logicClearsVf : Bool
  /-- `FONT_DIGIT_MASK` (43_index_memory.md R182). -/
  fontDigitMask : Bool
  /-- `FONT`, the glyph bytes (20_memory.md R78). -/
  font : List Byte
  /-- `KEY_MASK` (45_timers_input.md R223, R224). -/
  keyMask : Bool
  /-- `LORES_DXY0` (44_display.md R206). -/
  loresDxy0 : LoresDxy0
  /-- `HIRES_REENTRY_CLEARS` (44_display.md R201). -/
  hiresReentryClears : Bool
  /-- `STACK_LIMIT`; `none` is the unbounded stack (10_state.md R41). -/
  stackLimit : Option Nat
  deriving DecidableEq, Repr

namespace Config

/-- `FONT_BASE` of 00_scope.md R10. -/
def fontBase : Nat := 0

/-- `GLYPH_BYTES` of 00_scope.md R10. -/
def glyphBytes : Nat := 5

/-- The bytes of the font, `FONT_GLYPHS` times `GLYPH_BYTES` (00_scope.md R10). -/
def fontBytes : Nat := 80

/-- The default load offset (00_scope.md R10; 20_memory.md R77). -/
def defaultOffset : Nat := 0x200

/-- The default `FONT`, the standard hexadecimal font as 20_memory.md R78 tables it, one glyph a line.
UNVERIFIED: the spec itself takes these bytes from general knowledge (G4, D16); log 11. -/
def standardFont : List Byte :=
  [0xF0, 0x90, 0x90, 0x90, 0xF0] ++
  [0x20, 0x60, 0x20, 0x20, 0x70] ++
  [0xF0, 0x10, 0xF0, 0x80, 0xF0] ++
  [0xF0, 0x10, 0xF0, 0x10, 0xF0] ++
  [0x90, 0x90, 0xF0, 0x10, 0x10] ++
  [0xF0, 0x80, 0xF0, 0x10, 0xF0] ++
  [0xF0, 0x80, 0xF0, 0x90, 0xF0] ++
  [0xF0, 0x10, 0x20, 0x40, 0x40] ++
  [0xF0, 0x90, 0xF0, 0x90, 0xF0] ++
  [0xF0, 0x90, 0xF0, 0x10, 0xF0] ++
  [0xF0, 0x90, 0xF0, 0x90, 0x90] ++
  [0xE0, 0x90, 0xE0, 0x90, 0xE0] ++
  [0xF0, 0x80, 0x80, 0x80, 0xF0] ++
  [0xE0, 0x90, 0x90, 0x90, 0xE0] ++
  [0xF0, 0x80, 0xF0, 0x80, 0xF0] ++
  [0xF0, 0x80, 0xF0, 0x80, 0x80]

/-- Every parameter at the default of 00_scope.md R11 and R12.
UNVERIFIED: the defaults are the spec's own choices (D8, D10 to D12, D15, D16, D18, D20, D21, D24, D35); log 19. -/
def default : Config where
  memSize := 4096
  sysAsNop := false
  shiftSource := .vx
  vfOrder := .flagLast
  logicClearsVf := false
  fontDigitMask := true
  font := standardFont
  keyMask := false
  loresDxy0 := .fault
  hiresReentryClears := false
  stackLimit := none

/-- `RAND` of 00_scope.md R12: the `n`-th free random byte, of which nothing is known (42_alu.md R173, D25; log 7). -/
opaque freeDraw : Nat → Byte

/-- What a memory address reads as after a load with no program bytes: the font at 0x000..0x04F, zero above
(10_state.md R56; 20_memory.md R77). It is what an address that memory does not list reads as (log 8). -/
def resetByte (c : Config) (a : Nat) : Byte :=
  if a < fontBytes then c.font.getD a 0 else 0

end Config

end Sys2Proof
end

