-- ==== Sys2Proof/Machine/Memory.lean ====
section
/-! DEFINITION. Memory as a list of (address, byte) pairs in one canonical form, and its byte accesses (20_memory.md R70 to R75). -/

namespace Sys2Proof.Machine

/-- The bytes that differ from what load leaves there with no program, by strictly rising address (log 8). -/
abbrev Memory := List Host.Cell

/-- The byte listed at an address. -/
def Memory.lookup : Memory → Nat → Option Byte
  | [], _ => none
  | (b, v) :: m, a => if b = a then some v else Memory.lookup m a

/-- `MemRead(a, 1)` for an address already checked (00_scope.md R17; log 15): an unlisted address reads as
`Config.resetByte`. -/
def Memory.read (c : Config) (m : Memory) (a : Nat) : Byte := (Memory.lookup m a).getD (c.resetByte a)

/-- List a byte at an address, in place of what is listed there. -/
def Memory.put : Memory → Nat → Byte → Memory
  | [], a, v => [(a, v)]
  | (b, u) :: m, a, v =>
    if a < b then (a, v) :: (b, u) :: m else if a = b then (a, v) :: m else (b, u) :: Memory.put m a v

/-- Unlist an address. -/
def Memory.drop (m : Memory) (a : Nat) : Memory := m.filter (fun cell => !(cell.1 == a))

/-- `MemWrite(a, 1, v)` for an address already checked (00_scope.md R17; log 15). -/
def Memory.write (c : Config) (m : Memory) (a : Nat) (v : Byte) : Memory :=
  if v = c.resetByte a then Memory.drop m a else Memory.put m a v

/-- Writes of consecutive bytes from an address on, the lowest first (20_memory.md R72; D43). -/
def Memory.writeSpan (c : Config) : Memory → Nat → List Byte → Memory
  | m, _, [] => m
  | m, a, v :: vs => Memory.writeSpan c (Memory.write c m a v) (a + 1) vs

/-- The canonical form: addresses strictly rising and inside memory, no byte equal to what its address reads as unlisted. -/
abbrev Memory.wf (c : Config) (m : Memory) : Prop :=
  m.Pairwise (fun p q => p.1 < q.1) ∧ ∀ cell ∈ m, cell.1 < c.memSize ∧ cell.2 ≠ c.resetByte cell.1

/-- `CheckRange(base, count)` of 43_index_memory.md: the first of the addresses base .. base+count-1 that is not inside
memory, in unbounded naturals (20_memory.md R74, R88). -/
def checkRange (memSize base count : Nat) : Option Nat :=
  ((List.range count).map (base + ·)).find? (fun a => decide (memSize ≤ a))

end Sys2Proof.Machine
end

