-- ==== Sys2Proof/Machine/NatSet.lean ====
section
/-! DEFINITION. Finite sets of natural numbers as strictly rising lists: the lit cells of the framebuffer and the held keys. -/

namespace Sys2Proof.Machine.NatSet

/-- Add a number, at its place. -/
def insert (k : Nat) : List Nat → List Nat
  | [] => [k]
  | a :: l => if k < a then k :: a :: l else if k = a then a :: l else a :: insert k l

/-- Take a number out. -/
def erase (k : Nat) (l : List Nat) : List Nat := l.filter (fun a => !(a == k))

/-- Add a number that is not there, take out one that is: the exclusive or of a bit with 1. -/
def toggle (k : Nat) (l : List Nat) : List Nat := if l.contains k then erase k l else insert k l

/-- The canonical form: strictly rising, every element below the bound. -/
abbrev wf (bound : Nat) (l : List Nat) : Prop := l.Pairwise (· < ·) ∧ ∀ k ∈ l, k < bound

end Sys2Proof.Machine.NatSet
end

