-- ==== Sys2Proof/Machine/State.lean ====
section
/-! DEFINITION. The state record of 10_state.md R30, the faults of 60_exceptions.md R240, the refusals, and the state after reset. -/

namespace Sys2Proof.Machine

/-- The faults of 60_exceptions.md R240. Taking one is a next state whose status is `faulted` (log 5); the outcome
`fault` is raised only by `step` in a state that is already `faulted` (R244). -/
inductive Fault where
  /-- Code 1: `address` is the first address of a fetch window, or of a data access of `DXYN`, `FX33`, `FX55` or `FX65`,
  that is not inside memory. Raised by every fetch and by those four. Safe: it stops where the spec does. -/
  | outOfBounds (address : Nat)
  /-- Code 2: `w` matches no row of the opcode table. Raised by decoding. Safe: the spec calls every unlisted word fatal. -/
  | unknownInstruction (w : Word)
  /-- Code 3: a return with an empty stack. Raised by `00EE`. Safe: the spec calls it fatal. -/
  | stackUnderflow
  /-- Code 4: a call at a finite `STACK_LIMIT`. Raised by `2NNN`. Safe: it stops where the hardware may go on. -/
  | stackOverflow
  /-- Code 5: `w` is a `DXY0` in low resolution with `LORES_DXY0` = `FAULT`. Raised by `DXYN`. Safe: it stops where the
  source gives no meaning. -/
  | unmodelledForm (w : Word)
  deriving DecidableEq, Repr

/-- The numeric code of a fault (60_exceptions.md R240). -/
def Fault.code : Fault → Nat
  | .outOfBounds _ => 1
  | .unknownInstruction _ => 2
  | .stackUnderflow => 3
  | .stackOverflow => 4
  | .unmodelledForm _ => 5

/-- Why the machine refuses. -/
inductive Refusal where
  /-- An instruction without a meaning, by its mnemonic. Raised by an arm of `exec` only; no arm raises it now. Safe. -/
  | notModelled (mnemonic : String)
  /-- `step` before the first load (60_exceptions.md R247). Raised by `step` in `unloaded`. Safe: the host must load first. -/
  | notLoaded
  /-- A key code outside 0..15 (60_exceptions.md R254). Raised by `setKeyDown` and `setKeyUp`. Safe: it is outside the
  interface. -/
  | keyOutOfRange (code : Nat)
  deriving DecidableEq, Repr

/-- The state machine of 10_state.md R46; `awaitingInput` holds the await latch (R49), `faulted` the fault that later
steps repeat. -/
inductive Status where
  | unloaded
  | ready
  | awaitingInput (t : VReg)
  | faulted (f : Fault)
  deriving DecidableEq, Repr

/-- The state: the record of 10_state.md R30, and the model's own `drawCount` (log 7) and `config` (log 1). -/
@[ext]
structure State where
  /-- The state machine (R46). -/
  status : Status
  /-- Memory, the bytes that differ from `Config.resetByte`, by strictly rising address (R30; 20_memory.md R70; log 8). -/
  mem : List Host.Cell
  /-- `V0` to `VF` (R32). -/
  v : Vector Byte 16
  /-- The index register `I` (R39). -/
  i : Word
  /-- The program counter (R36). -/
  pc : Word
  /-- The return-address stack, its head the top (R40). -/
  stack : List Word
  /-- The delay timer (R42). -/
  dt : Byte
  /-- The sound timer (R42). -/
  st : Byte
  /-- The flag slots (R43). -/
  flags : Vector Byte 16
  /-- The resolution mode (R45). -/
  hires : Bool
  /-- The framebuffer: the numbers `y * W + x` of its lit cells, strictly rising (R47; log 9). -/
  fb : List Nat
  /-- The held-key set, strictly rising (R48; log 9). -/
  keys : List Nat
  /-- The model's own: how many random bytes have been drawn (42_alu.md R173; log 7). -/
  drawCount : Nat
  /-- The model's own: the parameters, which nothing changes (R31; log 1). -/
  config : Config
  deriving DecidableEq, Repr

/-- The result of a step or of an instruction. -/
abbrev Result := Host.Outcome State Fault Refusal

/-- The table of 10_state.md R56 with every parameter at its default, the default load offset and no program bytes:
the state that `load [] 0x200` leaves (log 2, 3, 19; `drawCount` is a DESIGN CHOICE, log 7). -/
def State.reset : State where
  status := .ready
  mem := []
  v := Vector.replicate 16 0
  i := 0
  pc := 0x200
  stack := []
  dt := 0
  st := 0
  flags := Vector.replicate 16 0
  hires := false
  fb := []
  keys := []
  drawCount := 0
  config := Config.default

end Sys2Proof.Machine
end

