-- ==== Sys2Proof/Machine/Ops.lean ====
section
/-! DEFINITION. The named operations over the state: accessors, taking a fault, checked transfers and fetching. -/

namespace Sys2Proof.Machine

/-! ### Accessors, one home for every piece of state -/

/-- Read `V[x]` (00_scope.md R16). -/
def State.reg (s : State) (x : VReg) : Byte := s.v[x.val]

/-- `V[x] <- b`; the byte is already `trunc_8` of the value (00_scope.md R15, R16). -/
def State.setReg (s : State) (x : VReg) (b : Byte) : State := { s with v := s.v.set x.val b }

/-- Write the whole register file. -/
def State.setRegs (s : State) (v : Vector Byte 16) : State := { s with v := v }

/-- Read flag slot `x` (10_state.md R43). -/
def State.flagSlot (s : State) (x : VReg) : Byte := s.flags[x.val]

/-- Write all flag slots. -/
def State.setFlags (s : State) (f : Vector Byte 16) : State := { s with flags := f }

/-- `I <- a` (10_state.md R39). -/
def State.setI (s : State) (a : Word) : State := { s with i := a }

/-- `pc <- a` (00_scope.md R18). -/
def State.setPc (s : State) (a : Word) : State := { s with pc := a }

/-- Write the return-address stack. -/
def State.setStack (s : State) (l : List Word) : State := { s with stack := l }

/-- `DT <- b` (10_state.md R42). -/
def State.setDt (s : State) (b : Byte) : State := { s with dt := b }

/-- `ST <- b` (10_state.md R42). -/
def State.setSt (s : State) (b : Byte) : State := { s with st := b }

/-- Write the status (10_state.md R46). -/
def State.setStatus (s : State) (t : Status) : State := { s with status := t }

/-- Write the resolution mode (10_state.md R45). -/
def State.setHires (s : State) (h : Bool) : State := { s with hires := h }

/-- Write the set of lit cells. -/
def State.setFb (s : State) (l : List Nat) : State := { s with fb := l }

/-- Write the held-key set. -/
def State.setKeys (s : State) (l : List Nat) : State := { s with keys := l }

/-- Write memory. -/
def State.setMem (s : State) (m : Memory) : State := { s with mem := m }

/-- One more random byte has been drawn (log 7). -/
def State.countDraw (s : State) : State := { s with drawCount := s.drawCount + 1 }

/-- The byte at a memory address (00_scope.md R17). -/
def State.readByte (s : State) (a : Nat) : Byte := Memory.read s.config s.mem a

/-- Store one byte (00_scope.md R17). -/
def State.writeByte (s : State) (a : Nat) (b : Byte) : State := s.setMem (Memory.write s.config s.mem a b)

/-- Store consecutive bytes, the first at `a` (20_memory.md R72). -/
def State.writeBytes (s : State) (a : Nat) (bs : List Byte) : State :=
  s.setMem (Memory.writeSpan s.config s.mem a bs)

/-- `W`, the framebuffer's width (10_state.md R45, R47). -/
def State.width (s : State) : Nat := if s.hires then 128 else 64

/-- `H`, the framebuffer's height (10_state.md R45, R47). -/
def State.height (s : State) : Nat := if s.hires then 64 else 32

/-- The cell of column `x`, row `y` (10_state.md R47). -/
def State.cell (s : State) (x y : Nat) : Nat := y * s.width + x

/-- `fb[x, y]`: whether the pixel is 1 (10_state.md R47). -/
def State.pixel (s : State) (x y : Nat) : Bool := s.fb.contains (s.cell x y)

/-- Whether a key code is in the held-key set (10_state.md R48). -/
def State.keyHeld (s : State) (k : Nat) : Bool := s.keys.contains k

/-! ### Moving the program counter -/

/-- The advance past the instruction's word, `trunc_16(pc + 2)` (10_state.md R38; 30_encoding.md R104). Every meaning
starts with it; a fault undoes it (log 6). -/
def State.advance (s : State) : State := s.setPc (s.pc + 2)

/-- `skip` of 00_scope.md R18, when the condition holds; `pc` is already advanced. -/
def State.skipIf (s : State) (cond : Bool) : State := if cond then s.setPc (s.pc + 2) else s

/-! ### Taking a fault

There is no handler, vector or saved register (60_exceptions.md R243) and no instruction that returns from a fault (R261):
the way out is the host's `load` (`State.load` in Commands.lean). -/

/-- Take a fault in the state before the step: only the status changes (60_exceptions.md R241, R242). -/
def State.takeFault (s : State) (f : Fault) : State := s.setStatus (.faulted f)

/-- `raise F(info)` (00_scope.md R18): the whole step leaves no mutation but the status, so `s` is the state before the
step (log 5, 6). -/
def raise (f : Fault) (s : State) : Result := .next (s.takeFault f)

/-- Go on to `t` when every address of the transfer is inside memory, and take `OutOfBounds` of the first that is not
otherwise, with nothing written (20_memory.md R74; 00_scope.md R19). -/
def guardRange (base count : Nat) (s t : State) : Result :=
  match checkRange s.config.memSize base count with
  | some a => raise (.outOfBounds a) s
  | none => .next t

/-! ### Fetching -/

/-- The word at `pc`, or the fault of a window that is not inside memory (30_encoding.md R101 to R103). -/
def State.fetch (s : State) : Except Fault Word :=
  let a := s.pc.toNat
  if s.config.memSize ≤ a + 1 then .error (.outOfBounds (if s.config.memSize ≤ a then a else a + 1))
  else .ok (wordOfBytes (s.readByte a) (s.readByte (a + 1)))

/-- Take the fault of a word that is no instruction (30_encoding.md R105, R114). -/
def raiseUnknown (w : Word) (s : State) : Result := raise (.unknownInstruction w) s

end Sys2Proof.Machine
end

