-- ==== Sys2Proof/Machine/Flags.lean ====
section
/-! DEFINITION. The results and flags of the arithmetic, and the order in which result and flag are written (42_alu.md R160, R161). -/

namespace Sys2Proof.Machine

/-- A flag as the byte VF holds, "0 or 1, never the raw overflow value" (10_state.md R35). -/
def flagByte (b : Bool) : Byte := if b then 1 else 0

/-- `WriteRF(X, r, f)` of 42_alu.md R161. -/
def State.writeRF (s : State) (x : VReg) (r f : Byte) : State :=
  match s.config.vfOrder with
  | .flagLast => (s.setReg x r).setReg vF f
  | .resultLast => (s.setReg vF f).setReg x r

/-- The write of a logic operation: VF is cleared only with `LOGIC_CLEARS_VF` (42_alu.md R165 to R167). -/
def State.writeLogic (s : State) (x : VReg) (r : Byte) : State :=
  if s.config.logicClearsVf then s.writeRF x r 0 else s.setReg x r

/-- `trunc_8(a + b)` (42_alu.md R168). -/
def sumByte (a b : Byte) : Byte := BitVec.ofNat 8 (a.toNat + b.toNat)

/-- The carry: the exact sum is above 255 (42_alu.md R168). -/
def carry (a b : Byte) : Bool := decide (255 < a.toNat + b.toNat)

/-- `trunc_8(a - b + 256)` (42_alu.md R169, R171). -/
def differenceByte (a b : Byte) : Byte := BitVec.ofNat 8 (a.toNat + 256 - b.toNat)

/-- The not-borrow flag: the minuend is at least the subtrahend (42_alu.md R160, R169, R171). -/
def notBorrow (a b : Byte) : Bool := decide (b.toNat ≤ a.toNat)

/-- `src >> 1` (42_alu.md R170). -/
def shiftRightByte (a : Byte) : Byte := BitVec.ofNat 8 (a.toNat / 2)

/-- The bit a right shift puts out, bit 0 (42_alu.md R170). -/
def shiftedOutRight (a : Byte) : Bool := a.getLsbD 0

/-- `trunc_8(src << 1)` (42_alu.md R172). -/
def shiftLeftByte (a : Byte) : Byte := BitVec.ofNat 8 (a.toNat * 2)

/-- The bit a left shift puts out, bit 7 (42_alu.md R172). -/
def shiftedOutLeft (a : Byte) : Bool := a.getLsbD 7

end Sys2Proof.Machine
end

