-- ==== Sys2Proof/Machine/Operands.lean ====
section
/-! DEFINITION. The operand forms: addresses, shift sources, key and digit operands, sprite forms and bulk transfers. -/

namespace Sys2Proof.Machine

/-- The 12-bit address operand zero-extended to 16 bits (30_encoding.md R107). -/
def addressOperand (nnn : BitVec 12) : Word := nnn.setWidth 16

/-- The data address `nat(I + k)`, the only data addressing mode (43_index_memory.md R188; 20_memory.md R88). -/
def State.dataAddress (s : State) (k : Nat) : Nat := s.i.toNat + k

/-- The shift source of `8XY6` and `8XYE` (42_alu.md R170, R172). -/
def State.shiftOperand (s : State) (x y : VReg) : Byte :=
  match s.config.shiftSource with
  | .vx => s.reg x
  | .vy => s.reg y

/-- The key code that `EX9E` and `EXA1` test (45_timers_input.md R223, R224). -/
def State.keyOperand (s : State) (x : VReg) : Nat :=
  if s.config.keyMask then (s.reg x).toNat % 16 else (s.reg x).toNat

/-- The digit whose glyph `FX29` selects (43_index_memory.md R182). -/
def State.digitOperand (s : State) (x : VReg) : Nat :=
  if s.config.fontDigitMask then (s.reg x).toNat % 16 else (s.reg x).toNat

/-- The address of a glyph, `trunc_16(FONT_BASE + 5 * d)` (43_index_memory.md R182). -/
def glyphAddress (d : Nat) : Word := BitVec.ofNat 16 (Config.fontBase + Config.glyphBytes * d)

/-- The three decimal digits of a byte, the most significant first (43_index_memory.md R183). -/
def bcdDigits (a : Byte) : List Byte :=
  [BitVec.ofNat 8 (a.toNat / 100), BitVec.ofNat 8 (a.toNat / 10 % 10), BitVec.ofNat 8 (a.toNat % 10)]

/-- The registers `V0` to `VX` as the bytes a bulk store transfers (43_index_memory.md R184, R186). -/
def State.regsUpTo (s : State) (x : VReg) : List Byte := s.v.toList.take (x.val + 1)

/-- `for k in 0 .. X: dst[k] <- src k` over a 16-byte file (43_index_memory.md R185 to R187). -/
def copyUpTo (x : VReg) (src : VReg → Byte) (dst : Vector Byte 16) : Vector Byte 16 :=
  Vector.ofFn (fun k => if k ≤ x then src k else dst[k.val])

/-- `trunc_16(base + X + 1)`, what `I` becomes after `FX55` and `FX65` (43_index_memory.md R184, R185). -/
def State.indexPast (s : State) (x : VReg) : Word := BitVec.ofNat 16 (s.i.toNat + x.val + 1)

/-- The shape of a sprite: columns, rows and bytes per row (44_display.md R202). -/
structure SpriteForm where
  cols : Nat
  rows : Nat
  bytesPerRow : Nat
  deriving DecidableEq, Repr

/-- The bytes a sprite occupies. -/
def SpriteForm.size (f : SpriteForm) : Nat := f.rows * f.bytesPerRow

/-- The form that the row count selects (44_display.md R202, R206); `none` is `DXY0` in low resolution under
`LORES_DXY0` = `FAULT`. -/
def State.spriteForm (s : State) (n : Nat) : Option SpriteForm :=
  if n ≠ 0 then some ⟨8, n, 1⟩
  else if s.hires then some ⟨16, 16, 2⟩
  else match s.config.loresDxy0 with
    | .sprite16 => some ⟨16, 16, 2⟩
    | .zeroRows => some ⟨8, 0, 1⟩
    | .fault => none

end Sys2Proof.Machine
end

