-- ==== Sys2Proof/Machine/Alu.lean ====
section
/-! DEFINITION. The meanings of register arithmetic and logic (42_alu.md). Each takes the state before the step and reads its operands from it, before any write (00_scope.md R19). -/

namespace Sys2Proof.Machine

/-- LD Vx, NN (R162). -/
def execLdImm (x : VReg) (nn : Byte) (s : State) : Result := .next (s.advance.setReg x nn)

/-- ADD Vx, NN (R163): VF is not written as a carry. -/
def execAddImm (x : VReg) (nn : Byte) (s : State) : Result := .next (s.advance.setReg x (sumByte (s.reg x) nn))

/-- LD Vx, Vy (R164). -/
def execLdReg (x y : VReg) (s : State) : Result := .next (s.advance.setReg x (s.reg y))

/-- OR Vx, Vy (R165). -/
def execOrReg (x y : VReg) (s : State) : Result := .next (s.advance.writeLogic x (s.reg x ||| s.reg y))

/-- AND Vx, Vy (R166). -/
def execAndReg (x y : VReg) (s : State) : Result := .next (s.advance.writeLogic x (s.reg x &&& s.reg y))

/-- XOR Vx, Vy (R167). -/
def execXorReg (x y : VReg) (s : State) : Result := .next (s.advance.writeLogic x (s.reg x ^^^ s.reg y))

/-- ADD Vx, Vy (R168). -/
def execAddReg (x y : VReg) (s : State) : Result :=
  .next (s.advance.writeRF x (sumByte (s.reg x) (s.reg y)) (flagByte (carry (s.reg x) (s.reg y))))

/-- SUB Vx, Vy (R169). -/
def execSubReg (x y : VReg) (s : State) : Result :=
  .next (s.advance.writeRF x (differenceByte (s.reg x) (s.reg y)) (flagByte (notBorrow (s.reg x) (s.reg y))))

/-- SHR Vx, Vy (R170). -/
def execShr (x y : VReg) (s : State) : Result :=
  .next (s.advance.writeRF x (shiftRightByte (s.shiftOperand x y)) (flagByte (shiftedOutRight (s.shiftOperand x y))))

/-- SUBN Vx, Vy (R171). -/
def execSubnReg (x y : VReg) (s : State) : Result :=
  .next (s.advance.writeRF x (differenceByte (s.reg y) (s.reg x)) (flagByte (notBorrow (s.reg y) (s.reg x))))

/-- SHL Vx, Vy (R172). -/
def execShl (x y : VReg) (s : State) : Result :=
  .next (s.advance.writeRF x (shiftLeftByte (s.shiftOperand x y)) (flagByte (shiftedOutLeft (s.shiftOperand x y))))

/-- RND Vx, NN for the drawn byte `r` (R173). -/
def rndWith (r : Byte) (x : VReg) (nn : Byte) (s : State) : Result :=
  .next ((s.advance.setReg x (r &&& nn)).countDraw)

/-- RND Vx, NN (R173): the byte is free, a fresh one at every execution (log 7). -/
def execRnd (x : VReg) (nn : Byte) (s : State) : Result := rndWith (Config.freeDraw s.drawCount) x nn s

end Sys2Proof.Machine
end

