-- ==== Sys2Proof/Machine/Control.lean ====
section
/-! DEFINITION. The meanings of control flow (41_control_flow.md). Each takes the state before the step (log 6). -/

namespace Sys2Proof.Machine

/-- NOP (R140). -/
def execNop (s : State) : Result := .next s.advance

/-- RET (R141). -/
def execRet (s : State) : Result :=
  match s.stack with
  | [] => raise .stackUnderflow s
  | top :: rest => .next ((s.setStack rest).setPc top)

/-- JP NNN (R142). -/
def execJp (nnn : BitVec 12) (s : State) : Result := .next (s.setPc (addressOperand nnn))

/-- CALL NNN (R143): the return address is the advanced `pc`. -/
def execCall (nnn : BitVec 12) (s : State) : Result :=
  if s.config.stackLimit = some s.stack.length then raise .stackOverflow s
  else .next ((s.setStack (s.advance.pc :: s.stack)).setPc (addressOperand nnn))

/-- SE Vx, NN (R144). -/
def execSeImm (x : VReg) (nn : Byte) (s : State) : Result := .next (s.advance.skipIf (s.reg x == nn))

/-- SNE Vx, NN (R145). -/
def execSneImm (x : VReg) (nn : Byte) (s : State) : Result := .next (s.advance.skipIf (s.reg x != nn))

/-- SE Vx, Vy (R146). -/
def execSeReg (x y : VReg) (s : State) : Result := .next (s.advance.skipIf (s.reg x == s.reg y))

/-- SNE Vx, Vy (R147). -/
def execSneReg (x y : VReg) (s : State) : Result := .next (s.advance.skipIf (s.reg x != s.reg y))

/-- JP V0, NNN (R148): the register is always V0, and the target is not masked to 12 bits. -/
def execJpV0 (nnn : BitVec 12) (s : State) : Result :=
  .next (s.setPc (BitVec.ofNat 16 (nnn.toNat + (s.reg 0).toNat)))

end Sys2Proof.Machine
end

