-- ==== Sys2Proof/Machine/Display.lean ====
section
/-! DEFINITION. The framebuffer and the draw unit (44_display.md). -/

namespace Sys2Proof.Machine

/-- All pixels 0 (R200). -/
def State.clearScreen (s : State) : State := s.setFb []

/-- The sprite bit of row `r`, column `c`: bit 7 of a row's byte is its leftmost column (R202, R205). -/
def State.spriteBit (s : State) (f : SpriteForm) (r c : Nat) : Bool :=
  (s.readByte (s.dataAddress (r * f.bytesPerRow + c / 8))).getLsbD (7 - c % 8)

/-- The cell under row `r`, column `c` of a sprite at `x0`, `y0`, both axes wrapped (R202, R204). -/
def State.spriteCell (s : State) (x0 y0 r c : Nat) : Nat :=
  s.cell ((x0 + c) % s.width) ((y0 + r) % s.height)

/-- The cells under the sprite's 1 bits, row by row and left to right (R202). -/
def State.spriteCells (s : State) (x0 y0 : Nat) (f : SpriteForm) : List Nat :=
  (List.range f.rows).flatMap fun r =>
    ((List.range f.cols).filter (s.spriteBit f r)).map (s.spriteCell x0 y0 r)

/-- Exclusive-or 1 into each cell in turn; the flag says that some pixel was 1 before (R202, R203). -/
def blit (fb : List Nat) (cells : List Nat) : List Nat × Bool :=
  cells.foldl (fun p k => (NatSet.toggle k p.1, p.2 || p.1.contains k)) (fb, false)

/-- Draw the sprite at the coordinates that `V[X]` and `V[Y]` hold, then write the collision flag (R202). -/
def State.draw (s : State) (x y : VReg) (f : SpriteForm) : State :=
  let p := blit s.fb (s.spriteCells (s.reg x).toNat (s.reg y).toNat f)
  (s.setFb p.1).setReg vF (flagByte p.2)

/-- CLS (R200). -/
def execCls (s : State) : Result := .next s.advance.clearScreen

/-- HIGH (R201): entering high resolution clears the buffer; in high resolution already, only with
`HIRES_REENTRY_CLEARS`. -/
def execHigh (s : State) : Result :=
  .next (if s.hires && !s.config.hiresReentryClears then s.advance else (s.advance.setHires true).clearScreen)

/-- DRW Vx, Vy, N (R202): the form check comes first, then the address range, both before any write. The recorded word
of `UnmodelledForm` is the instruction's own (log 13). -/
def execDrw (x y : VReg) (n : Nat) (s : State) : Result :=
  match s.spriteForm n with
  | none => raise (.unmodelledForm (encode (.drw x y n))) s
  | some f => guardRange (s.dataAddress 0) f.size s (s.advance.draw x y f)

end Sys2Proof.Machine
end

