-- ==== Sys2Proof/Machine/Index.lean ====
section
/-! DEFINITION. The meanings of the index register, the memory transfers and the flag slots (43_index_memory.md). -/

namespace Sys2Proof.Machine

/-- LD I, NNN (R180). -/
def execLdI (nnn : BitVec 12) (s : State) : Result := .next (s.advance.setI (addressOperand nnn))

/-- ADD I, Vx (R181): `I` wraps at 16 bits and VF is not written. -/
def execAddI (x : VReg) (s : State) : Result :=
  .next (s.advance.setI (BitVec.ofNat 16 (s.i.toNat + (s.reg x).toNat)))

/-- LD F, Vx (R182). -/
def execLdF (x : VReg) (s : State) : Result := .next (s.advance.setI (glyphAddress (s.digitOperand x)))

/-- LD B, Vx (R183): `I` is unchanged. -/
def execLdB (x : VReg) (s : State) : Result :=
  guardRange (s.dataAddress 0) 3 s (s.advance.writeBytes (s.dataAddress 0) (bcdDigits (s.reg x)))

/-- LD [I], Vx (R184): `I` advances past the transferred range. -/
def execLdMemVx (x : VReg) (s : State) : Result :=
  guardRange (s.dataAddress 0) (x.val + 1) s
    ((s.advance.writeBytes (s.dataAddress 0) (s.regsUpTo x)).setI (s.indexPast x))

/-- LD Vx, [I] (R185): `I` advances past the transferred range. -/
def execLdVxMem (x : VReg) (s : State) : Result :=
  guardRange (s.dataAddress 0) (x.val + 1) s
    ((s.advance.setRegs (copyUpTo x (fun k => s.readByte (s.dataAddress k.val)) s.v)).setI (s.indexPast x))

/-- LD R, Vx (R186): `I` is unchanged and memory is not accessed. -/
def execLdRVx (x : VReg) (s : State) : Result := .next (s.advance.setFlags (copyUpTo x s.reg s.flags))

/-- LD Vx, R (R187): `I` is unchanged and memory is not accessed. -/
def execLdVxR (x : VReg) (s : State) : Result := .next (s.advance.setRegs (copyUpTo x s.flagSlot s.v))

end Sys2Proof.Machine
end

