-- ==== Sys2Proof/Machine/TimersInput.lean ====
section
/-! DEFINITION. The meanings of the timer and keypad instructions (45_timers_input.md). -/

namespace Sys2Proof.Machine

/-- LD Vx, DT (R220). -/
def execLdVxDt (x : VReg) (s : State) : Result := .next (s.advance.setReg x s.dt)

/-- LD DT, Vx (R221). -/
def execLdDtVx (x : VReg) (s : State) : Result := .next (s.advance.setDt (s.reg x))

/-- LD ST, Vx (R222). -/
def execLdStVx (x : VReg) (s : State) : Result := .next (s.advance.setSt (s.reg x))

/-- SKP Vx (R223). -/
def execSkp (x : VReg) (s : State) : Result := .next (s.advance.skipIf (s.keyHeld (s.keyOperand x)))

/-- SKNP Vx (R224). -/
def execSknp (x : VReg) (s : State) : Result := .next (s.advance.skipIf (!s.keyHeld (s.keyOperand x)))

/-- LD Vx, K (R225): the core waits for the next key-down, which writes `V[X]` (`State.setKeyDown` in Commands.lean). -/
def execLdVxK (x : VReg) (s : State) : Result := .next (s.advance.setStatus (.awaitingInput x))

end Sys2Proof.Machine
end

