-- ==== Sys2Proof/Machine/Step.lean ====
section
/-! DEFINITION. One host `step` command (30_encoding.md R101; 60_exceptions.md R244 to R247), and the state in which it runs a given word. -/

namespace Sys2Proof.Machine

/-- One `step`. In `ready` it fetches, decodes and runs one instruction, taking the fault of the first check that fails
(60_exceptions.md R260); in `awaitingInput` it changes nothing (R245); in `faulted` it repeats the fault and in `unloaded`
it is refused, the state staying as it was (R244, R247; log 5). -/
def step (s : State) : Host.Outcome State Fault Refusal :=
  match s.status with
  | .unloaded => .refused .notLoaded
  | .faulted f => .fault f
  | .awaitingInput _ => .next s
  | .ready =>
    match s.fetch with
    | .error f => raise f s
    | .ok w =>
      match decodeWord s.config.sysAsNop w with
      | .ok i => exec i s
      | .error _ => raiseUnknown w s

/-- `s` made `ready`, with a table word stored where `step` fetches its next instruction: at `pc`, or at 0 when no
instruction fits in memory at `pc`. It stands for the host's load of a program (log 2, 21). -/
def State.withFetchWord (s : State) (nbits w : Nat) : State :=
  let t := s.setStatus .ready
  let u := if t.pc.toNat + 1 < t.config.memSize then t else t.setPc 0
  u.writeBytes u.pc.toNat (bytesOfWord (tableWord nbits w))

end Sys2Proof.Machine
end

