-- ==== Sys2Proof/Machine/Commands.lean ====
section
/-! DEFINITION. The host's commands and read ports (10_state.md R52, R53; 60_exceptions.md R252 to R257; 70_reset_and_hazards.md R280 to R284). -/

namespace Sys2Proof.Machine

/-- What a host command answers (10_state.md R52): `Ok`, a step's fault, the load error `RomTooLarge`, or a refusal
(60_exceptions.md R240, R247, R254). -/
inductive Response where
  | ok
  | err (f : Fault)
  | romTooLarge
  | refused (r : Refusal)
  deriving DecidableEq, Repr

/-- The host commands (10_state.md R52). -/
inductive Command where
  | load (bytes : List Byte) (offset : Nat)
  | step
  | updateTimers
  | setKeyDown (code : Nat)
  | setKeyUp (code : Nat)
  deriving DecidableEq, Repr

/-- Every field at its value of 10_state.md R56 before the program is copied; the parameters and the count of drawn
bytes stay (log 17). -/
def State.cleared (s : State) : State where
  status := .ready
  mem := []
  v := Vector.replicate 16 0
  i := 0
  pc := s.pc
  stack := []
  dt := 0
  st := 0
  flags := Vector.replicate 16 0
  hires := false
  fb := []
  keys := []
  drawCount := s.drawCount
  config := s.config

/-- A load whose size check passed (70_reset_and_hazards.md R281). A `pc` of 0x10000 is truncated to 16 bits (log 10). -/
def State.loadProgram (s : State) (bytes : List Byte) (offset : Nat) : State :=
  (s.cleared.writeBytes offset bytes).setPc (BitVec.ofNat 16 offset)

/-- `load(bytes, offset)` (70_reset_and_hazards.md R280, R281): the only way out of `faulted` (60_exceptions.md R248). -/
def State.load (s : State) (bytes : List Byte) (offset : Nat) : State × Response :=
  if s.config.memSize < offset + bytes.length then (s, .romTooLarge) else (s.loadProgram bytes offset, .ok)

/-- One timer tick, clamped at 0 (60_exceptions.md R256). -/
def countDown (b : Byte) : Byte := BitVec.ofNat 8 (b.toNat - 1)

/-- `updateTimers()` (60_exceptions.md R256, R257): it acts in every status. -/
def State.updateTimers (s : State) : State := (s.setDt (countDown s.dt)).setSt (countDown s.st)

/-- The write of a key code that a waiting `FX0A` receives; in any other status nothing (60_exceptions.md R252). -/
def State.deliverKey (s : State) (k : Nat) : State :=
  match s.status with
  | .awaitingInput t => (s.setReg t (BitVec.ofNat 8 k)).setStatus .ready
  | .unloaded | .ready | .faulted _ => s

/-- `setKeyDown(k)` (60_exceptions.md R252, R254): it acts in every status, and a code past 15 is refused. -/
def State.setKeyDown (s : State) (k : Nat) : State × Response :=
  if k < 16 then ((s.setKeys (NatSet.insert k s.keys)).deliverKey k, .ok) else (s, .refused (.keyOutOfRange k))

/-- `setKeyUp(k)` (60_exceptions.md R253, R254). -/
def State.setKeyUp (s : State) (k : Nat) : State × Response :=
  if k < 16 then (s.setKeys (NatSet.erase k s.keys), .ok) else (s, .refused (.keyOutOfRange k))

/-- The answer of a step that went on to `t`: `Err(f)` when it took the fault `f` (60_exceptions.md R242). -/
def stepResponse (t : State) : Response :=
  match t.status with
  | .faulted f => .err f
  | .unloaded | .ready | .awaitingInput _ => .ok

/-- `step()` as a host command: the state it leaves, and its answer (60_exceptions.md R242 to R247; log 5). -/
def State.stepCommand (s : State) : State × Response :=
  match step s with
  | .next t => (t, stepResponse t)
  | .fault f => (s, .err f)
  | .refused r => (s, .refused r)

/-- One host command, one atomic transition (10_state.md R51). -/
def command (c : Command) (s : State) : State × Response :=
  match c with
  | .load bytes offset => s.load bytes offset
  | .step => s.stepCommand
  | .updateTimers => (s.updateTimers, .ok)
  | .setKeyDown k => s.setKeyDown k
  | .setKeyUp k => s.setKeyUp k

/-- A run: the host's commands in the order issued, with their answers (10_state.md R51; 70_reset_and_hazards.md R292). -/
def runCommands : List Command → State → State × List Response
  | [], s => (s, [])
  | c :: cs, s =>
    let p := command c s
    let q := runCommands cs p.1
    (q.1, p.2 :: q.2)

/-! The read ports (10_state.md R53): the pixels with `W` and `H`, the resolution mode, the awaiting status and the
register snapshot. They are functions of the state, so reading one changes nothing. -/

/-- The framebuffer port: the row-major grid of pixels (10_state.md R47, R53). -/
def State.pixelPort (s : State) : List Bool := (List.range (s.width * s.height)).map s.fb.contains

/-- The resolution port (10_state.md R53). -/
def State.resolutionPort (s : State) : Bool := s.hires

/-- The "is awaiting input" port (10_state.md R53). -/
def State.awaitingPort (s : State) : Bool :=
  match s.status with
  | .awaitingInput _ => true
  | .unloaded | .ready | .faulted _ => false

/-- The register snapshot (10_state.md R53). -/
structure Snapshot where
  v : Vector Byte 16
  i : Word
  pc : Word
  stack : List Word
  dt : Byte
  st : Byte
  flags : Vector Byte 16
  status : Status
  deriving DecidableEq, Repr

/-- The register snapshot port (10_state.md R53). -/
def State.snapshotPort (s : State) : Snapshot := ⟨s.v, s.i, s.pc, s.stack, s.dt, s.st, s.flags, s.status⟩

end Sys2Proof.Machine
end

