-- ==== Sys2Proof/WellFormed.lean ====
section
/-! DEFINITION. Which instructions have an encoding, and which parameter settings are legal. -/

namespace Sys2Proof

/-- The row count of a draw fits its 4-bit field (30_encoding.md R100, R107). Every other operand fits its field by its
type. -/
def Instr.wellFormed : Instr → Bool
  | .drw _ _ n => decide (n < 16)
  | .nop | .cls | .ret | .high | .jp _ | .call _ | .seImm _ _ | .sneImm _ _ | .seReg _ _ | .ldImm _ _ | .addImm _ _
  | .ldReg _ _ | .orReg _ _ | .andReg _ _ | .xorReg _ _ | .addReg _ _ | .subReg _ _ | .shr _ _ | .subnReg _ _ | .shl _ _
  | .sneReg _ _ | .ldI _ | .jpV0 _ | .rnd _ _ | .skp _ | .sknp _ | .ldVxDt _ | .ldVxK _ | .ldDtVx _ | .ldStVx _ | .addI _
  | .ldF _ | .ldB _ | .ldMemVx _ | .ldVxMem _ | .ldRVx _ | .ldVxR _ => true

/-- The legal parameter settings: the range of `MEM_SIZE` (00_scope.md R11), the size of `FONT` and the least
`STACK_LIMIT` (00_scope.md R10, R12). -/
abbrev Config.wellFormed (c : Config) : Prop :=
  0x50 ≤ c.memSize ∧ c.memSize ≤ 0x10000 ∧ c.font.length = Config.fontBytes ∧ c.stackLimit ≠ some 0

end Sys2Proof
end

