-- ==== Sys2Proof/Safety.lean ====
section
/-! DEFINITION. The invariant of the state record, what a fault status must say, safe runs, and the spec's end of a run. -/

namespace Sys2Proof.Machine

/-- The framebuffer's cells are those of the current grid (10_state.md R47). -/
abbrev State.fbWf (s : State) : Prop := NatSet.wf (s.width * s.height) s.fb

/-- The held-key set is a subset of 0x0..0xF (10_state.md R48). -/
abbrev State.keysWf (s : State) : Prop := NatSet.wf 16 s.keys

/-- The stack is within a finite `STACK_LIMIT` (10_state.md R41), and each return address is the address past a call that
was fetched, so at most `MEM_SIZE` (41_control_flow.md R141). -/
abbrev State.stackWf (s : State) : Prop :=
  (∀ n ∈ s.config.stackLimit, s.stack.length ≤ n) ∧ ∀ a ∈ s.stack, a.toNat ≤ s.config.memSize

/-- What a recorded fault says is so (60_exceptions.md R240): the address is outside memory, the word is no instruction,
the stack has a finite limit, the word is a `DXY0` and `LORES_DXY0` is `FAULT`. -/
abbrev Fault.consistent (c : Config) : Fault → Prop
  | .outOfBounds a => c.memSize ≤ a
  | .unknownInstruction w => decodeWord c.sysAsNop w = .error (.unknownInstruction w)
  | .stackUnderflow => True
  | .stackOverflow => c.stackLimit ≠ none
  | .unmodelledForm w => w &&& 0xF00F = 0xD000 ∧ c.loresDxy0 = .fault

/-- The fault of a `faulted` status is consistent. -/
abbrev State.statusWf (s : State) : Prop := ∀ f, s.status = .faulted f → f.consistent s.config

/-- The invariant of the state record: what 10_state.md and 60_exceptions.md say of every state the core can be in. -/
structure State.Inv (s : State) : Prop where
  config : s.config.wellFormed
  mem : Memory.wf s.config s.mem
  fb : s.fbWf
  keys : s.keysWf
  stack : s.stackWf
  status : s.statusWf

/-- Whether the core is in a fault: the states of which "no instruction runs until the next load" (60_exceptions.md R261). -/
def State.isFaulted (s : State) : Bool :=
  match s.status with
  | .faulted _ => true
  | .unloaded | .ready | .awaitingInput _ => false

/-- A safe run: no command of it answers a fault. -/
def SafeRun (cs : List Command) (s : State) : Prop := ∀ f, Response.err f ∉ (runCommands cs s).2

/-- The spec's convention for the end of a run (70_reset_and_hazards.md R292): a self-jump in `ready`, or a fault. It does
not say that the core stops. -/
def State.endOfRun (s : State) : Bool :=
  match s.status with
  | .faulted _ => true
  | .ready => match s.fetch with
    | .ok w => classOf w == 1 && (fieldNNN w).toNat == s.pc.toNat
    | .error _ => false
  | .unloaded | .awaitingInput _ => false

end Sys2Proof.Machine
end

