-- ==== Sys2Proof/Certificates/Slice0/Obligations.lean ====
section
/-! DEFINITION. The statements for the provers, in the order of the spec's files. A frame is written as an equation: `t = { s with f := t.f, … }` says that every field but the named ones is as it was. -/

open Sys2Proof Sys2Proof.Machine

/-! ## Encoding (30_encoding.md) -/

/-- 30_encoding.md R105, R112, R117: every well-formed instruction, with every operand, is read back from its word and
from its two bytes, under both settings of `SYS_AS_NOP`. -/
def Obligations.DecodeOfEncodeIsTheInstruction : Prop :=
  ∀ (b : Bool) (i : Instr), i.wellFormed = true →
    decodeWord b (encode i) = .ok i ∧ decodeBytes b (bytesOfWord (encode i)) = .ok i

/-- 30_encoding.md R105, R115: with `SYS_AS_NOP` false, no bit of a word is ignored. -/
def Obligations.EncodeOfDecodeIsTheWord : Prop :=
  ∀ (w : Word) (i : Instr), decodeWord false w = .ok i → i.wellFormed = true ∧ encode i = w

/-- 30_encoding.md R105: a word decodes to the instruction of its row, has at most one row, and is rejected by name when
it has none. -/
def Obligations.DecodingIsByTheUniqueRow : Prop :=
  ∀ w : Word,
    (∀ r ∈ opcodeRows, w &&& r.mask = r.pattern →
      (∀ b, decodeWord b w = .ok (r.build w)) ∧
      ∀ r' ∈ opcodeRows, w &&& r'.mask = r'.pattern → r' = r) ∧
    ((∀ r ∈ opcodeRows, w &&& r.mask ≠ r.pattern) → decodeWord false w = .error (.unknownInstruction w))

/-- 30_encoding.md R112 (its bit patterns are the spec's own from general knowledge, G2; log 12): words written out from
the table. -/
def Obligations.WordsOfTheOpcodeMap : Prop :=
  decodeWord false 0b0000000011101110 = .ok .ret ∧
  decodeWord false 0b0001101010111100 = .ok (.jp 0xABC) ∧
  decodeWord false 0b0110101000111110 = .ok (.ldImm 10 0x3E) ∧
  decodeWord false 0b1000000100100100 = .ok (.addReg 1 2) ∧
  decodeWord false 0b1010000100100011 = .ok (.ldI 0x123) ∧
  decodeWord false 0b1101000000010101 = .ok (.drw 0 1 5) ∧
  decodeWord false 0b1110010110011110 = .ok (.skp 5) ∧
  decodeWord false 0b1111001100001010 = .ok (.ldVxK 3) ∧
  decodeWord false 0b1111000001010101 = .ok (.ldMemVx 0) ∧
  decodeWord false 0b1111111111111111 = .error (.unknownInstruction 0xFFFF)

/-- 30_encoding.md R114, R115 (strict decoding is the spec's own decision D9): exactly which words are illegal with
`SYS_AS_NOP` false. -/
def Obligations.IllegalWordsAreExactlyThese : Prop :=
  ∀ w : Word, decodeWord false w = .error (.unknownInstruction w) ↔
    (classOf w = 0x0 ∧ w ≠ 0x0000 ∧ w ≠ 0x00E0 ∧ w ≠ 0x00EE ∧ w ≠ 0x00FF) ∨
    ((classOf w = 0x5 ∨ classOf w = 0x9) ∧ fieldN w ≠ 0) ∨
    (classOf w = 0x8 ∧ fieldN w ∈ [8, 9, 10, 11, 12, 13, 15]) ∨
    (classOf w = 0xE ∧ fieldNN w ≠ 0x9E ∧ fieldNN w ≠ 0xA1) ∨
    (classOf w = 0xF ∧
      fieldNN w ∉ ([0x07, 0x0A, 0x15, 0x18, 0x1E, 0x29, 0x33, 0x55, 0x65, 0x75, 0x85] : List Byte))

/-- 30_encoding.md R113 (the spec's own decision D8): with `SYS_AS_NOP` true every `0NNN` but three is a NOP, and no other
word decodes otherwise. -/
def Obligations.SysAsNopWidensOnlyNop : Prop :=
  ∀ w : Word, decodeWord true w =
    if classOf w = 0x0 ∧ w ≠ 0x00E0 ∧ w ≠ 0x00EE ∧ w ≠ 0x00FF then .ok .nop else decodeWord false w

/-! ## The step (30_encoding.md, 60_exceptions.md) -/

/-- 30_encoding.md R101 to R103: in `ready`, a step is `exec` of the instruction whose two bytes stand at `pc`, at that
same state; moving past the instruction's word is part of each meaning (the model's choice, log 6). -/
def Obligations.StepRunsTheDecodedInstruction : Prop :=
  ∀ (s : State) (i : Instr), s.status = .ready → s.pc.toNat + 1 < s.config.memSize →
    decodeBytes s.config.sysAsNop [s.readByte s.pc.toNat, s.readByte (s.pc.toNat + 1)] = .ok i → step s = exec i s

/-- 30_encoding.md R102, R104 (the recorded address is the spec's own decision D34): a window that is not inside memory
faults with its first bad address, and nothing but the status changes. -/
def Obligations.FetchOutsideMemoryFaults : Prop :=
  ∀ s : State, s.status = .ready → s.config.memSize ≤ s.pc.toNat + 1 →
    step s = .next { s with
      status := .faulted (.outOfBounds (if s.config.memSize ≤ s.pc.toNat then s.pc.toNat else s.pc.toNat + 1)) }

/-- 30_encoding.md R105, R114: a fetched word of no row faults with that word, and nothing but the status changes. -/
def Obligations.UnknownWordFaults : Prop :=
  ∀ s : State, s.status = .ready → s.pc.toNat + 1 < s.config.memSize →
    decodeWord s.config.sysAsNop (s.readByte s.pc.toNat ++ s.readByte (s.pc.toNat + 1)) =
      .error (.unknownInstruction (s.readByte s.pc.toNat ++ s.readByte (s.pc.toNat + 1))) →
    step s = .next { s with
      status := .faulted (.unknownInstruction (s.readByte s.pc.toNat ++ s.readByte (s.pc.toNat + 1))) }

/-- 60_exceptions.md R241, R242 (the spec's own decision D5): a step that ends in a fault changes the status alone, and the
host gets that fault, its `Err(f)` read from the new status (the model's choice, log 5). -/
def Obligations.FaultingStepChangesOnlyStatus : Prop :=
  ∀ (s t : State) (f : Fault), s.status = .ready → step s = .next t → t.status = .faulted f →
    t = { s with status := .faulted f } ∧ command .step s = (t, .err f)

/-- 60_exceptions.md R246: a step in `ready` always answers a next state, in `AwaitingInput(X)` exactly after a decoded
`FX0A`, and otherwise in `Ready` or in `Faulted`. -/
def Obligations.ReadyStepEndsInOneOfThreeWays : Prop :=
  ∀ s : State, s.status = .ready → ∃ t, step s = .next t ∧
    ((t.status = .ready ∧ command .step s = (t, .ok)) ∨
     (∃ x, t.status = .awaitingInput x ∧ command .step s = (t, .ok)) ∨
     (∃ f, t.status = .faulted f ∧ command .step s = (t, .err f))) ∧
    ∀ x, t.status = .awaitingInput x ↔
      ∃ w, s.fetch = .ok w ∧ decodeWord s.config.sysAsNop w = .ok (.ldVxK x)

/-- 60_exceptions.md R245: a step while awaiting input answers `Ok` and changes nothing. -/
def Obligations.AwaitingStepIsNoOp : Prop :=
  ∀ (s : State) (x : VReg), s.status = .awaitingInput x → step s = .next s ∧ command .step s = (s, .ok)

/-- 60_exceptions.md R244, R247 (the spec's own decisions D6, D7; the outcomes are the model's choice, log 5): where a
step stops, and that the state is as it was. -/
def Obligations.StepStopsInFaultedAndUnloaded : Prop :=
  (∀ (s : State) (f : Fault), s.status = .faulted f → step s = .fault f ∧ command .step s = (s, .err f)) ∧
  ∀ s : State, s.status = .unloaded → step s = .refused .notLoaded ∧ command .step s = (s, .refused .notLoaded)

/-! ## Control flow (41_control_flow.md) -/

/-- 41_control_flow.md R140, R142, R148 (R140, R148 carry the spec's decisions D8, D3): NOP and the two jumps complete and
change `pc` alone. -/
def Obligations.NopAndJumpsSetPcAlone : Prop :=
  (∀ s : State, exec .nop s = .next { s with pc := s.pc + 2 }) ∧
  (∀ (nnn : BitVec 12) (s : State), ∃ t, exec (.jp nnn) s = .next t ∧ t = { s with pc := t.pc } ∧
    t.pc.toNat = nnn.toNat) ∧
  ∀ (nnn : BitVec 12) (s : State), ∃ t, exec (.jpV0 nnn) s = .next t ∧ t = { s with pc := t.pc } ∧
    t.pc.toNat = nnn.toNat + (s.reg 0).toNat

/-- 41_control_flow.md R143 (the limit is the spec's own decision D24): a call pushes the address past itself and jumps;
at a finite `STACK_LIMIT` it faults, with nothing pushed. -/
def Obligations.CallPushesOrOverflows : Prop :=
  ∀ (nnn : BitVec 12) (s : State),
    (s.config.stackLimit ≠ some s.stack.length →
      ∃ t, exec (.call nnn) s = .next t ∧ t = { s with pc := t.pc, stack := (s.pc + 2) :: s.stack } ∧
        t.pc.toNat = nnn.toNat) ∧
    (s.config.stackLimit = some s.stack.length →
      exec (.call nnn) s = .next { s with status := .faulted .stackOverflow })

/-- 41_control_flow.md R141: a return pops the top of the stack into `pc`, unmasked; with an empty stack it faults. -/
def Obligations.ReturnPopsOrUnderflows : Prop :=
  (∀ b, decodeWord b 0x00EE = .ok .ret) ∧
  (∀ (s : State) (a : Word) (rest : List Word), s.stack = a :: rest →
    exec .ret s = .next { s with pc := a, stack := rest }) ∧
  ∀ s : State, s.stack = [] → exec .ret s = .next { s with status := .faulted .stackUnderflow }

/-- 41_control_flow.md R141, R143: a return undoes a completed call, whatever ran between them, as long as the stack is
what the call left. -/
def Obligations.ReturnUndoesCall : Prop :=
  ∀ (nnn : BitVec 12) (s t u : State), s.config.stackLimit ≠ some s.stack.length → exec (.call nnn) s = .next t →
    u.stack = t.stack → exec .ret u = .next { u with pc := s.pc + 2, stack := s.stack }

/-- 41_control_flow.md R144 to R147: the four register skips decode from their formats, complete, and add 4 or 2 to `pc`,
modulo 2^16, changing nothing else. -/
def Obligations.RegisterSkips : Prop :=
  ∀ (b : Bool) (x y : VReg) (nn : Byte) (s : State),
    (decodeWord b (encodeXI 0x3 x nn) = .ok (.seImm x nn) ∧
      exec (.seImm x nn) s = .next { s with pc := s.pc + if s.reg x = nn then 4 else 2 }) ∧
    (decodeWord b (encodeXI 0x4 x nn) = .ok (.sneImm x nn) ∧
      exec (.sneImm x nn) s = .next { s with pc := s.pc + if s.reg x = nn then 2 else 4 }) ∧
    (decodeWord b (encodeXY 0x5 x y 0) = .ok (.seReg x y) ∧
      exec (.seReg x y) s = .next { s with pc := s.pc + if s.reg x = s.reg y then 4 else 2 }) ∧
    (decodeWord b (encodeXY 0x9 x y 0) = .ok (.sneReg x y) ∧
      exec (.sneReg x y) s = .next { s with pc := s.pc + if s.reg x = s.reg y then 2 else 4 })

/-- 41_control_flow.md R149, 30_encoding.md R104: an instruction that ends without a fault and is no jump, call, return or
skip leaves `pc` at the next instruction, and a skip leaves it there or one instruction further. -/
def Obligations.OnlyControlTransfersMovePc : Prop :=
  ∀ (i : Instr) (s t : State), s.status = .ready → exec i s = .next t → (∀ f, t.status ≠ .faulted f) →
    match i with
    | .jp _ | .call _ | .ret | .jpV0 _ => True
    | .seImm _ _ | .sneImm _ _ | .seReg _ _ | .sneReg _ _ | .skp _ | .sknp _ => t.pc = s.pc + 2 ∨ t.pc = s.pc + 4
    | _ => t.pc = s.pc + 2

/-! ## Register arithmetic and logic (42_alu.md) -/

/-- 42_alu.md R162, R164: the immediate load and the move decode from their formats, complete, and write `V[X]` alone. -/
def Obligations.LoadImmediateAndMove : Prop :=
  ∀ (b : Bool) (x y : VReg) (nn : Byte) (s : State),
    (decodeWord b (encodeXI 0x6 x nn) = .ok (.ldImm x nn) ∧
      ∃ t, exec (.ldImm x nn) s = .next t ∧ t = { s with v := t.v, pc := s.pc + 2 } ∧
        ∀ r, t.reg r = if r = x then nn else s.reg r) ∧
    (decodeWord b (encodeXY 0x8 x y 0x0) = .ok (.ldReg x y) ∧
      ∃ t, exec (.ldReg x y) s = .next t ∧ t = { s with v := t.v, pc := s.pc + 2 } ∧
        ∀ r, t.reg r = if r = x then s.reg y else s.reg r)

/-- 42_alu.md R163 (that VF gets no carry is the spec's own decision D13): the immediate addition wraps modulo 256 and
writes `V[X]` alone. -/
def Obligations.AddImmediateHasNoCarry : Prop :=
  ∀ (x : VReg) (nn : Byte) (s : State),
    ∃ t, exec (.addImm x nn) s = .next t ∧ t = { s with v := t.v, pc := s.pc + 2 } ∧
      (t.reg x).toNat = ((s.reg x).toNat + nn.toNat) % 256 ∧ ∀ r, r ≠ x → t.reg r = s.reg r

/-- 42_alu.md R165 to R167 (the spec's own decision D12; both settings are covered): the logic operations complete; with
`LOGIC_CLEARS_VF` VF is 0 unless it is the destination and the result is written last. -/
def Obligations.LogicOperations : Prop :=
  ∀ (x y : VReg) (s : State) (i : Instr) (result : Byte),
    ((i = .orReg x y ∧ result = s.reg x ||| s.reg y) ∨ (i = .andReg x y ∧ result = s.reg x &&& s.reg y) ∨
      (i = .xorReg x y ∧ result = s.reg x ^^^ s.reg y)) →
    ∃ t, exec i s = .next t ∧ t = { s with v := t.v, pc := s.pc + 2 } ∧
      (∀ r, r ≠ x → r ≠ vF → t.reg r = s.reg r) ∧
      (x ≠ vF → t.reg x = result ∧ t.reg vF = if s.config.logicClearsVf then 0 else s.reg vF) ∧
      (x = vF → t.reg vF =
        if s.config.logicClearsVf = true ∧ s.config.vfOrder = .flagLast then 0 else result)

/-- 42_alu.md R168, R161: the register addition decodes from its format and completes; `V[X]` is the sum modulo 256, VF
the carry, and with X = F the `VF_ORDER` decides; nothing else changes but `pc`. -/
def Obligations.AddWritesCarry : Prop :=
  ∀ (b : Bool) (x y : VReg) (s : State), decodeWord b (encodeXY 0x8 x y 0x4) = .ok (.addReg x y) ∧
    ∃ t, exec (.addReg x y) s = .next t ∧ t = { s with v := t.v, pc := s.pc + 2 } ∧
      (∀ r, r ≠ x → r ≠ vF → t.reg r = s.reg r) ∧
      (x ≠ vF ∨ s.config.vfOrder = .resultLast → (t.reg x).toNat = ((s.reg x).toNat + (s.reg y).toNat) % 256) ∧
      (x ≠ vF ∨ s.config.vfOrder = .flagLast →
        t.reg vF = if 255 < (s.reg x).toNat + (s.reg y).toNat then 1 else 0)

/-- 42_alu.md R169, R171: both subtractions decode from their formats and complete; `V[X]` is the difference modulo 256,
VF the not-borrow flag, and with X = F the `VF_ORDER` decides; nothing else changes but `pc`. -/
def Obligations.SubtractWritesNotBorrow : Prop :=
  ∀ (b : Bool) (x y : VReg) (s : State),
    decodeWord b (encodeXY 0x8 x y 0x5) = .ok (.subReg x y) ∧ decodeWord b (encodeXY 0x8 x y 0x7) = .ok (.subnReg x y) ∧
    ∀ (i : Instr) (minuend subtrahend : Byte),
      ((i = .subReg x y ∧ minuend = s.reg x ∧ subtrahend = s.reg y) ∨
        (i = .subnReg x y ∧ minuend = s.reg y ∧ subtrahend = s.reg x)) →
      ∃ t, exec i s = .next t ∧ t = { s with v := t.v, pc := s.pc + 2 } ∧
        (∀ r, r ≠ x → r ≠ vF → t.reg r = s.reg r) ∧
        (x ≠ vF ∨ s.config.vfOrder = .resultLast →
          ((t.reg x).toNat : Int) = ((minuend.toNat : Int) - (subtrahend.toNat : Int)) % 256) ∧
        (x ≠ vF ∨ s.config.vfOrder = .flagLast → t.reg vF = if subtrahend.toNat ≤ minuend.toNat then 1 else 0)

/-- 42_alu.md R170, R172 (the source is the spec's own decision D10; both settings are covered): both shifts complete; the
shift is logical by one, VF the bit shifted out, and with X = F the `VF_ORDER` decides. -/
def Obligations.ShiftsWriteTheBitShiftedOut : Prop :=
  ∀ (x y : VReg) (s : State) (source : Byte),
    source = (if s.config.shiftSource = .vx then s.reg x else s.reg y) →
    ∀ (i : Instr) (result out : Nat),
      ((i = .shr x y ∧ result = source.toNat / 2 ∧ out = source.toNat % 2) ∨
        (i = .shl x y ∧ result = 2 * source.toNat % 256 ∧ out = source.toNat / 128)) →
      ∃ t, exec i s = .next t ∧ t = { s with v := t.v, pc := s.pc + 2 } ∧
        (∀ r, r ≠ x → r ≠ vF → t.reg r = s.reg r) ∧
        (x ≠ vF ∨ s.config.vfOrder = .resultLast → (t.reg x).toNat = result) ∧
        (x ≠ vF ∨ s.config.vfOrder = .flagLast → (t.reg vF).toNat = out)

/-- 42_alu.md R173 (a free byte is the spec's own decision D25): for EVERY drawn byte the instruction completes with
`V[X]` the byte masked, no flag written; `exec` takes the next free byte and counts it (the model's choice, log 7). -/
def Obligations.RandomIsMaskedFreeByte : Prop :=
  (∀ (r : Byte) (x : VReg) (nn : Byte) (s : State), ∃ t, rndWith r x nn s = .next t ∧
    t = { s with v := t.v, pc := s.pc + 2, drawCount := s.drawCount + 1 } ∧
    ∀ k, t.reg k = if k = x then r &&& nn else s.reg k) ∧
  ∀ (x : VReg) (nn : Byte) (s : State), ∃ t, exec (.rnd x nn) s = .next t ∧
    rndWith (Config.freeDraw s.drawCount) x nn s = .next t ∧ t.reg x &&& ~~~nn = 0

/-- 10_state.md R34 (with the spec's own decisions D12, D13): the instructions that write VF as a flag, and the
instructions that change it because they name it. -/
def Obligations.WritersOfVF : Prop :=
  ∀ (i : Instr) (s t : State), exec i s = .next t → t.reg vF ≠ s.reg vF →
    match i with
    | .addReg _ _ | .subReg _ _ | .subnReg _ _ | .shr _ _ | .shl _ _ | .drw _ _ _ => True
    | .orReg x _ | .andReg x _ | .xorReg x _ => s.config.logicClearsVf = true ∨ x = vF
    | .ldImm x _ | .addImm x _ | .ldReg x _ | .rnd x _ | .ldVxDt x | .ldVxMem x | .ldVxR x => x = vF
    | _ => False

/-! ## Index register, memory transfers and flag slots (43_index_memory.md) -/

/-- 43_index_memory.md R180 to R182 (R181, R182 carry the spec's decisions D14, D15; both settings of `FONT_DIGIT_MASK` are
covered): the three writes of `I` complete and change nothing else but `pc`. -/
def Obligations.IndexWrites : Prop :=
  (∀ (nnn : BitVec 12) (s : State), ∃ t, exec (.ldI nnn) s = .next t ∧ t = { s with i := t.i, pc := s.pc + 2 } ∧
    t.i.toNat = nnn.toNat) ∧
  (∀ (x : VReg) (s : State), ∃ t, exec (.addI x) s = .next t ∧ t = { s with i := t.i, pc := s.pc + 2 } ∧
    t.i.toNat = (s.i.toNat + (s.reg x).toNat) % 65536) ∧
  ∀ (x : VReg) (s : State), ∃ t, exec (.ldF x) s = .next t ∧ t = { s with i := t.i, pc := s.pc + 2 } ∧
    t.i.toNat = 5 * if s.config.fontDigitMask then (s.reg x).toNat % 16 else (s.reg x).toNat

/-- 43_index_memory.md R183 (that `I` stays is the spec's own decision D17): inside memory the three bytes at `I` become the
decimal digits, most significant first, and nothing else changes but `pc`. -/
def Obligations.BcdStoresThreeDigits : Prop :=
  ∀ (x : VReg) (s : State), s.i.toNat + 3 ≤ s.config.memSize →
    ∃ t, exec (.ldB x) s = .next t ∧ t = { s with mem := t.mem, pc := s.pc + 2 } ∧
      (∀ k < 3, (t.readByte (s.dataAddress k)).toNat < 10) ∧
      100 * (t.readByte (s.dataAddress 0)).toNat + 10 * (t.readByte (s.dataAddress 1)).toNat +
        (t.readByte (s.dataAddress 2)).toNat = (s.reg x).toNat ∧
      ∀ a, (∀ k < 3, a ≠ s.dataAddress k) → t.readByte a = s.readByte a

/-- 43_index_memory.md R184: the bulk store decodes from its format; inside memory it stores `V0` to `VX` at `I` and on,
advances `I` past them, and changes nothing else but `pc`; with an address outside memory it faults with the first one,
nothing written (20_memory.md R74, R88, 60_exceptions.md R240: that fault and the address it records are the spec's own
decisions D2, D34, D37). -/
def Obligations.BulkStore : Prop :=
  ∀ (b : Bool) (x : VReg) (s : State), decodeWord b (encodeXS 0xF x 0x55) = .ok (.ldMemVx x) ∧
    (s.i.toNat + x.val < s.config.memSize →
      ∃ t, exec (.ldMemVx x) s = .next t ∧ t = { s with mem := t.mem, i := t.i, pc := s.pc + 2 } ∧
        (∀ k : VReg, k ≤ x → t.readByte (s.dataAddress k.val) = s.reg k) ∧
        (∀ a, (∀ k : VReg, k ≤ x → a ≠ s.dataAddress k.val) → t.readByte a = s.readByte a) ∧
        t.i.toNat = (s.i.toNat + x.val + 1) % 65536) ∧
    (s.config.memSize ≤ s.i.toNat + x.val →
      exec (.ldMemVx x) s = .next { s with status := .faulted (.outOfBounds (max s.i.toNat s.config.memSize)) })

/-- 43_index_memory.md R185: the bulk load decodes from its format; inside memory it loads `V0` to `VX` from `I` and on,
advances `I` past them, and changes nothing else but `pc`; with an address outside memory it faults with the first one, no
register written (20_memory.md R74, R88, 60_exceptions.md R240: that fault and the address it records are the spec's own
decisions D2, D34, D37). -/
def Obligations.BulkLoad : Prop :=
  ∀ (b : Bool) (x : VReg) (s : State), decodeWord b (encodeXS 0xF x 0x65) = .ok (.ldVxMem x) ∧
    (s.i.toNat + x.val < s.config.memSize →
      ∃ t, exec (.ldVxMem x) s = .next t ∧ t = { s with v := t.v, i := t.i, pc := s.pc + 2 } ∧
        (∀ k : VReg, t.reg k = if k ≤ x then s.readByte (s.dataAddress k.val) else s.reg k) ∧
        t.i.toNat = (s.i.toNat + x.val + 1) % 65536) ∧
    (s.config.memSize ≤ s.i.toNat + x.val →
      exec (.ldVxMem x) s = .next { s with status := .faulted (.outOfBounds (max s.i.toNat s.config.memSize)) })

/-- 20_memory.md R74, R88, 60_exceptions.md R260 (the spec's own decisions D2, D34, D37): a BCD store or a draw whose transfer is
not all inside memory faults with its first bad address, in unbounded naturals, and nothing else changes. -/
def Obligations.DataOutsideMemoryFaults : Prop :=
  (∀ (x : VReg) (s : State), s.config.memSize < s.i.toNat + 3 →
    exec (.ldB x) s = .next { s with status := .faulted (.outOfBounds (max s.i.toNat s.config.memSize)) }) ∧
  ∀ (x y : VReg) (n : Nat) (s : State),
    ((n ≠ 0 ∧ s.config.memSize < s.i.toNat + n) ∨
      (n = 0 ∧ (s.hires = true ∨ s.config.loresDxy0 = .sprite16) ∧ s.config.memSize < s.i.toNat + 32)) →
    exec (.drw x y n) s = .next { s with status := .faulted (.outOfBounds (max s.i.toNat s.config.memSize)) }

/-- 43_index_memory.md R186, R187 (that a load of the core resets the slots is decision D29, not stated here): both
transfers complete for all 16 values of X and change only the slots or only the registers, and `pc`. -/
def Obligations.FlagSlotTransfers : Prop :=
  (∀ (x : VReg) (s : State), ∃ t, exec (.ldRVx x) s = .next t ∧ t = { s with flags := t.flags, pc := s.pc + 2 } ∧
    ∀ k : VReg, t.flagSlot k = if k ≤ x then s.reg k else s.flagSlot k) ∧
  ∀ (x : VReg) (s : State), ∃ t, exec (.ldVxR x) s = .next t ∧ t = { s with v := t.v, pc := s.pc + 2 } ∧
    ∀ k : VReg, t.reg k = if k ≤ x then s.flagSlot k else s.reg k

/-! ## Display (44_display.md) -/

/-- 44_display.md R200: the clear completes, makes every pixel 0, and changes nothing else but `pc`. -/
def Obligations.ClearScreen : Prop :=
  (∀ b, decodeWord b 0x00E0 = .ok .cls) ∧
  ∀ s : State, ∃ t, exec .cls s = .next t ∧ t = { s with fb := t.fb, pc := s.pc + 2 } ∧ ∀ px py, t.pixel px py = false

/-- 44_display.md R201 (the spec's own decision D21; both settings are covered): entering high resolution makes the grid
128 by 64 with every pixel 0; in high resolution already, the picture stays unless `HIRES_REENTRY_CLEARS`. -/
def Obligations.EnterHighResolution : Prop :=
  ∀ s : State, ∃ t, exec .high s = .next t ∧ t = { s with fb := t.fb, hires := true, pc := s.pc + 2 } ∧
    t.width = 128 ∧ t.height = 64 ∧
    (s.hires = false ∨ s.config.hiresReentryClears = true → ∀ px py, t.pixel px py = false) ∧
    (s.hires = true → s.config.hiresReentryClears = false → t.fb = s.fb)

/-- The pixel (`px`, `py`) lies under a 1 bit of the sprite of `rows` rows and `cols` columns, `bpr` bytes a row, that
`V[X]`, `V[Y]` and `I` give in `s`: both axes wrapped, the most significant bit leftmost (44_display.md R202, R204, R205). -/
def Sys2Proof.Claims.underSprite (s : State) (x y : VReg) (cols rows bpr px py : Nat) : Prop :=
  ∃ r < rows, ∃ c < cols, px = ((s.reg x).toNat + c) % s.width ∧ py = ((s.reg y).toNat + r) % s.height ∧
    (s.readByte (s.i.toNat + r * bpr + c / 8)).toNat / 2 ^ (7 - c % 8) % 2 = 1

/-- The columns, rows and bytes per row that a row count selects (44_display.md R202, R206). -/
def Sys2Proof.Claims.formIs (s : State) (n cols rows bpr : Nat) : Prop :=
  (n ≠ 0 ∧ cols = 8 ∧ rows = n ∧ bpr = 1) ∨
  (n = 0 ∧ (s.hires = true ∨ s.config.loresDxy0 = .sprite16) ∧ cols = 16 ∧ rows = 16 ∧ bpr = 2) ∨
  (n = 0 ∧ s.hires = false ∧ s.config.loresDxy0 = .zeroRows ∧ cols = 8 ∧ rows = 0 ∧ bpr = 1)

/-- 44_display.md R202 to R205 (R202's operand order, R205's bit order and R206's form are the spec's own decisions D19,
D20): a draw whose bytes are inside memory completes; each pixel is flipped exactly when it lies under a 1 bit of the
sprite, VF is 1 exactly when such a pixel was lit, and nothing else changes but `pc`. -/
def Obligations.DrawFlipsPixelsUnderTheSprite : Prop :=
  ∀ (x y : VReg) (n cols rows bpr : Nat) (s : State), n < 16 → Claims.formIs s n cols rows bpr →
    s.i.toNat + rows * bpr ≤ s.config.memSize ∨ rows = 0 →
    ∃ t, exec (.drw x y n) s = .next t ∧ t = { s with fb := t.fb, v := t.v, pc := s.pc + 2 } ∧
      (∀ r, r ≠ vF → t.reg r = s.reg r) ∧
      (∀ px < s.width, ∀ py < s.height,
        (t.pixel px py = true ↔ ¬(s.pixel px py = true ↔ Claims.underSprite s x y cols rows bpr px py))) ∧
      (t.reg vF = 0 ∨ t.reg vF = 1) ∧
      (t.reg vF = 1 ↔ ∃ px < s.width, ∃ py < s.height,
        Claims.underSprite s x y cols rows bpr px py ∧ s.pixel px py = true)

/-- 44_display.md R207: drawing the same sprite at the same place twice gives the framebuffer back, and the second draw
reports a collision exactly when the first one lit a pixel. -/
def Obligations.DrawingTwiceRestoresTheFramebuffer : Prop :=
  ∀ (x y : VReg) (n cols rows bpr : Nat) (s t : State), n < 16 → s.fbWf → Claims.formIs s n cols rows bpr →
    s.i.toNat + rows * bpr ≤ s.config.memSize ∨ rows = 0 →
    exec (.drw x y n) s = .next t → t.reg x = s.reg x → t.reg y = s.reg y →
    ∃ u, exec (.drw x y n) t = .next u ∧ u.fb = s.fb ∧
      (u.reg vF = 1 ↔ ∃ px < s.width, ∃ py < s.height,
        Claims.underSprite s x y cols rows bpr px py ∧ s.pixel px py = false)

/-- 44_display.md R206, R202 (the spec's own decision D20): `DXY0` in low resolution with `LORES_DXY0` = `FAULT` faults with
its own word, before its addresses are looked at; with `ZERO_ROWS` it clears VF and draws nothing. -/
def Obligations.LowResolutionDxy0 : Prop :=
  ∀ (x y : VReg) (s : State), s.hires = false →
    (s.config.loresDxy0 = .fault →
      exec (.drw x y 0) s = .next { s with status := .faulted (.unmodelledForm (encodeXY 0xD x y 0)) }) ∧
    (s.config.loresDxy0 = .zeroRows →
      ∃ t, exec (.drw x y 0) s = .next t ∧ t = { s with v := t.v, pc := s.pc + 2 } ∧
        ∀ r, t.reg r = if r = vF then 0 else s.reg r)

/-! ## Timers and input (45_timers_input.md, 60_exceptions.md) -/

/-- 45_timers_input.md R220 to R222: the three timer instructions decode from their formats, complete, and write their
destination alone. -/
def Obligations.TimerTransfers : Prop :=
  ∀ (b : Bool) (x : VReg) (s : State),
    (decodeWord b (encodeXS 0xF x 0x07) = .ok (.ldVxDt x) ∧
      ∃ t, exec (.ldVxDt x) s = .next t ∧ t = { s with v := t.v, pc := s.pc + 2 } ∧
        ∀ r, t.reg r = if r = x then s.dt else s.reg r) ∧
    (decodeWord b (encodeXS 0xF x 0x15) = .ok (.ldDtVx x) ∧
      exec (.ldDtVx x) s = .next { s with dt := s.reg x, pc := s.pc + 2 }) ∧
    (decodeWord b (encodeXS 0xF x 0x18) = .ok (.ldStVx x) ∧
      exec (.ldStVx x) s = .next { s with st := s.reg x, pc := s.pc + 2 })

/-- 45_timers_input.md R223, R224 (the spec's own decision D18; both settings of `KEY_MASK` are covered): the key skips
complete and change `pc` alone, by whether the tested code is in the held-key set. -/
def Obligations.KeySkips : Prop :=
  ∀ (x : VReg) (s : State) (k : Nat),
    k = (if s.config.keyMask then (s.reg x).toNat % 16 else (s.reg x).toNat) →
    exec (.skp x) s = .next { s with pc := s.pc + if k ∈ s.keys then 4 else 2 } ∧
    exec (.sknp x) s = .next { s with pc := s.pc + if k ∈ s.keys then 2 else 4 }

/-- 45_timers_input.md R225, 60_exceptions.md R252 (R252 with the spec's own decision D27): `FX0A` completes by waiting
past itself whatever keys are held; any number of steps then change nothing; the next key-down writes the latched
register, keeps the key held and makes the core ready. -/
def Obligations.BlockingKeyRead : Prop :=
  ∀ (b : Bool) (x : VReg) (s : State) (steps k : Nat), k < 16 →
    decodeWord b (encodeXS 0xF x 0x0A) = .ok (.ldVxK x) ∧
    ∃ t, exec (.ldVxK x) s = .next t ∧ t = { s with status := .awaitingInput x, pc := s.pc + 2 } ∧
      (runCommands (List.replicate steps .step) t).1 = t ∧
      ∃ u, command (.setKeyDown k) t = (u, .ok) ∧
        u = { t with status := .ready, v := u.v, keys := u.keys } ∧
        (∀ r, (u.reg r).toNat = if r = x then k else (t.reg r).toNat) ∧
        ∀ j, j ∈ u.keys ↔ j = k ∨ j ∈ t.keys

/-- 60_exceptions.md R256, R257 (acting in every status is the spec's own decision D26): any number of timer ticks count
both timers down to 0 and no further, and change nothing else. -/
def Obligations.TimersCountDownToZero : Prop :=
  ∀ (n : Nat) (s t : State), t = (runCommands (List.replicate n .updateTimers) s).1 →
    t = { s with dt := t.dt, st := t.st } ∧ t.dt.toNat = s.dt.toNat - n ∧ t.st.toNat = s.st.toNat - n

/-- 60_exceptions.md R252 to R254 (the spec's own decisions D26, D27, D45, D46): key events act on the held-key set; a
key-down ends a wait, a key-up never does; a code past 15 is refused and changes nothing. -/
def Obligations.KeyEvents : Prop :=
  ∀ (s : State) (k : Nat),
    (k < 16 → (∀ x, s.status ≠ .awaitingInput x) →
      ∃ t, command (.setKeyDown k) s = (t, .ok) ∧ t = { s with keys := t.keys } ∧ ∀ j, j ∈ t.keys ↔ j = k ∨ j ∈ s.keys) ∧
    (k < 16 → ∃ t, command (.setKeyUp k) s = (t, .ok) ∧ t = { s with keys := t.keys } ∧
      ∀ j, j ∈ t.keys ↔ j ∈ s.keys ∧ j ≠ k) ∧
    (16 ≤ k → command (.setKeyDown k) s = (s, .refused (.keyOutOfRange k)) ∧
      command (.setKeyUp k) s = (s, .refused (.keyOutOfRange k)))

/-! ## Load and reset (70_reset_and_hazards.md, 10_state.md) -/

/-- 70_reset_and_hazards.md R280: a load that does not fit answers `RomTooLarge` and changes no state. -/
def Obligations.OversizeLoadChangesNothing : Prop :=
  ∀ (bytes : List Byte) (offset : Nat) (s : State), s.config.memSize < offset + bytes.length →
    command (.load bytes offset) s = (s, .romTooLarge)

/-- 70_reset_and_hazards.md R281, R284, 10_state.md R56 (the zeros and the free offsets are the spec's own decisions D22,
D29, D36; that `drawCount` and `config` stay is the model's choice, log 17): a load that fits leaves exactly the program,
the font and zeros in memory, `pc` at the offset, and every other field at its reset value. The offset is below 0x10000,
where `pc` can hold it (log 10). -/
def Obligations.LoadResetsAndCopies : Prop :=
  ∀ (bytes : List Byte) (offset : Nat) (s : State), offset + bytes.length ≤ s.config.memSize → offset < 65536 →
    ∃ t, command (.load bytes offset) s = (t, .ok) ∧ t.pc.toNat = offset ∧
      (∀ k < bytes.length, t.readByte (offset + k) = bytes.getD k 0) ∧
      (∀ a, a < offset ∨ offset + bytes.length ≤ a → t.readByte a = if a < 80 then s.config.font.getD a 0 else 0) ∧
      t.status = .ready ∧ (∀ r, t.reg r = 0) ∧ (∀ r, t.flagSlot r = 0) ∧ t.i = 0 ∧ t.stack = [] ∧ t.dt = 0 ∧ t.st = 0 ∧
      t.hires = false ∧ (∀ px py, t.pixel px py = false) ∧ t.keys = [] ∧ t.drawCount = s.drawCount ∧ t.config = s.config

/-- 70_reset_and_hazards.md R283: a load's result depends on the parameters and its arguments alone (and on the model's own
count of drawn bytes, log 17), so a second load changes nothing. -/
def Obligations.LoadIsIdempotent : Prop :=
  ∀ (bytes : List Byte) (offset : Nat) (s s' : State), s'.config = s.config → s'.drawCount = s.drawCount →
    offset + bytes.length ≤ s.config.memSize →
    command (.load bytes offset) s' = command (.load bytes offset) s ∧
    runCommands [.load bytes offset, .load bytes offset] s = ((command (.load bytes offset) s).1, [.ok, .ok])

/-- 10_state.md R56, 70_reset_and_hazards.md R281 (the zeros and the parameters' defaults are the spec's own decisions;
that reset means an empty load at the default offset is the model's reading, log 2): the reset state is what that load
leaves, from any state with the default parameters and no byte drawn. -/
def Obligations.ResetIsAnEmptyLoad : Prop :=
  ∀ s : State, s.config = Config.default → s.drawCount = 0 →
    command (.load [] Config.defaultOffset) s = (State.reset, .ok)

/-! ## The whole machine -/

/-- 00_scope.md R11, 10_state.md R30, R41, R47, R48, 20_memory.md R70, 41_control_flow.md R141, 60_exceptions.md R240: the
reset state (the model's reading, log 2) meets the invariant, whose canonical forms are the model's choice (log 8, 9). -/
def Obligations.ResetMeetsTheStateRecord : Prop := State.reset.Inv

/-- 10_state.md R30, R38, R41, R47, R48, 20_memory.md R70, R74, 41_control_flow.md R141, 60_exceptions.md R240: every step
keeps the invariant: memory and framebuffer in canonical form and inside their bounds, the stack within its limit and its
addresses within `MEM_SIZE`, a recorded fault true. The canonical forms are the model's choice (log 8, 9). -/
def Obligations.StepKeepsTheStateRecord : Prop :=
  ∀ s t : State, s.Inv → step s = .next t → t.Inv

/-- 10_state.md R30, R38, R41, R47, R48, R51, 20_memory.md R70, R74, 41_control_flow.md R141, 60_exceptions.md R240: every
run of host commands keeps the invariant, in whatever order the host issues them. The invariant's canonical forms are the
model's choice (log 8, 9). -/
def Obligations.EveryRunKeepsTheStateRecord : Prop :=
  ∀ (cs : List Command) (s : State), s.Inv → (runCommands cs s).1.Inv

/-- 60_exceptions.md R250: all the transitions of the state machine, command by command. -/
def Obligations.StatusTransitions : Prop :=
  ∀ s : State,
    (∀ (bytes : List Byte) (offset : Nat), (command (.load bytes offset) s).1.status =
      if offset + bytes.length ≤ s.config.memSize then .ready else s.status) ∧
    (s.status ≠ .ready → (command .step s).1.status = s.status) ∧
    (s.status = .ready → (command .step s).1.status = .ready ∨ (∃ x, (command .step s).1.status = .awaitingInput x) ∨
      ∃ f, (command .step s).1.status = .faulted f) ∧
    (∀ k < 16, (∀ x, s.status = .awaitingInput x → (command (.setKeyDown k) s).1.status = .ready ∧
        ((command (.setKeyDown k) s).1.reg x).toNat = k) ∧
      ((∀ x, s.status ≠ .awaitingInput x) → (command (.setKeyDown k) s).1.status = s.status)) ∧
    (∀ k, (command (.setKeyUp k) s).1.status = s.status) ∧ (command .updateTimers s).1.status = s.status

/-- 60_exceptions.md R243, R244, R261 (the spec's own decisions D6, D26): once faulted, no command but a load that fits ends the fault or runs an instruction:
any run without one leaves everything but the two timers and the held-key set as it was. -/
def Obligations.FaultIsTerminalUntilLoad : Prop :=
  ∀ (cs : List Command) (s : State) (f : Fault), s.status = .faulted f →
    (∀ bytes offset, .load bytes offset ∈ cs → s.config.memSize < offset + bytes.length) →
    (runCommands cs s).1 = { s with
      dt := (runCommands cs s).1.dt, st := (runCommands cs s).1.st, keys := (runCommands cs s).1.keys }

/-- 60_exceptions.md R245, R249, R253, R254, R257, R265 (the spec's own decisions D26, D46): while awaiting input, no command but a key-down or a load that fits ends the wait or runs
an instruction; the timers and key-ups still act. -/
def Obligations.WaitEndsOnlyByKeyDownOrLoad : Prop :=
  ∀ (cs : List Command) (s : State) (x : VReg), s.status = .awaitingInput x →
    (∀ k, .setKeyDown k ∈ cs → 16 ≤ k) →
    (∀ bytes offset, .load bytes offset ∈ cs → s.config.memSize < offset + bytes.length) →
    (runCommands cs s).1 = { s with
      dt := (runCommands cs s).1.dt, st := (runCommands cs s).1.st, keys := (runCommands cs s).1.keys }

/-- 20_memory.md R73, R79: of all instructions only `FX33` and `FX55` change a byte of memory, and only at the addresses
they store to. -/
def Obligations.OnlyTwoInstructionsStore : Prop :=
  ∀ (i : Instr) (s t : State) (a : Nat), exec i s = .next t → t.readByte a ≠ s.readByte a →
    (∃ x, i = .ldB x ∧ s.dataAddress 0 ≤ a ∧ a ≤ s.dataAddress 2) ∨
    ∃ x, i = .ldMemVx x ∧ s.dataAddress 0 ≤ a ∧ a ≤ s.dataAddress x.val

/-- 10_state.md R39, R40, R42, R43, R45 to R49, R31, 60_exceptions.md R246: which instructions change each piece of state
outside `V`, `pc` and memory; the status changes in `FX0A` and in a fault alone; the held-key set and the parameters no
instruction changes. That `drawCount` and `config` are fields of the state is the model's choice (log 7, 1). -/
def Obligations.OwnersOfEachStateField : Prop :=
  ∀ (i : Instr) (s t : State), exec i s = .next t →
    (t.status ≠ s.status → (∃ x, i = .ldVxK x ∧ t.status = .awaitingInput x) ∨ ∃ f, t.status = .faulted f) ∧
    (t.i ≠ s.i → (∃ a, i = .ldI a) ∨ ∃ x, i = .addI x ∨ i = .ldF x ∨ i = .ldMemVx x ∨ i = .ldVxMem x) ∧
    (t.stack ≠ s.stack → (∃ a, i = .call a) ∨ i = .ret) ∧
    (t.dt ≠ s.dt → ∃ x, i = .ldDtVx x) ∧
    (t.st ≠ s.st → ∃ x, i = .ldStVx x) ∧
    (t.flags ≠ s.flags → ∃ x, i = .ldRVx x) ∧
    (t.hires ≠ s.hires → i = .high ∧ t.hires = true) ∧
    (t.fb ≠ s.fb → i = .cls ∨ i = .high ∨ ∃ x y n, i = .drw x y n) ∧
    (t.drawCount ≠ s.drawCount → ∃ x nn, i = .rnd x nn) ∧
    t.keys = s.keys ∧ t.config = s.config

/-- 10_state.md R45: no command but a load that fits ever leaves high resolution, over any run. -/
def Obligations.HighResolutionStaysUntilLoad : Prop :=
  ∀ (cs : List Command) (s : State), s.hires = true →
    (∀ bytes offset, .load bytes offset ∈ cs → s.config.memSize < offset + bytes.length) →
    (runCommands cs s).1.hires = true

/-- Two step results that agree but for the sound timer. -/
def Sys2Proof.Claims.agreeButSt : Result → Result → Prop
  | .next t, .next u => { t with st := u.st } = u
  | .fault f, .fault g => f = g
  | .refused q, .refused r => q = r
  | _, _ => False

/-- 10_state.md R42: the sound timer is not read: two states that differ in it alone take the same step, and the results
differ in it alone. -/
def Obligations.SoundTimerIsNeverRead : Prop :=
  ∀ (s : State) (b : Byte), Claims.agreeButSt (step s) (step { s with st := b })

/-- 20_memory.md R82, R84, 70_reset_and_hazards.md R289: a bulk store over the next instruction's two bytes is what the
next fetch reads. -/
def Obligations.StoreIsSeenByTheNextFetch : Prop :=
  ∀ (x k l : VReg) (s t : State), s.config.wellFormed → s.i.toNat + x.val < s.config.memSize →
    exec (.ldMemVx x) s = .next t → l.val = k.val + 1 → l ≤ x → t.pc.toNat = s.dataAddress k.val →
    t.fetch = .ok (s.reg k ++ s.reg l)

/-- 41_control_flow.md R142, 60_exceptions.md R267, 70_reset_and_hazards.md R292: in a state that R292 calls an end by a
self-jump, every further step answers the same state: the core neither halts nor flags. -/
def Obligations.SelfJumpStepsInPlace : Prop :=
  ∀ (s : State) (n : Nat), s.status = .ready → s.endOfRun = true →
    step s = .next s ∧ (runCommands (List.replicate n .step) s).1 = s

/-- 20_memory.md R79, R82 and the model's canonical form (log 8): a byte read after a write is the written byte there and
the old byte elsewhere, and two canonical memories that read alike are equal. -/
def Obligations.MemoryIsItsReads : Prop :=
  (∀ (s : State) (a k : Nat) (b : Byte), (s.writeByte a b).readByte k = if k = a then b else s.readByte k) ∧
  ∀ s t : State, t.config = s.config → Memory.wf s.config s.mem → Memory.wf t.config t.mem →
    (∀ a, t.readByte a = s.readByte a) → t.mem = s.mem
end

