-- ==== Sys2Proof/Laws/Decode.lean ====
section
/-! SUPPORT. The fields and fixed bits of each encoded format, the disjoint rows of the opcode table, and decoding by row. -/

namespace Sys2Proof

theorem nibble_toReg (x : VReg) : Fin.ofNat 16 (nibble x).toNat = x := by
  apply Fin.ext; simp [nibble, Fin.ofNat]

/-! ### The fields of each format -/

@[simp] theorem fieldNNN_encodeA (c : BitVec 4) (nnn : BitVec 12) : fieldNNN (encodeA c nnn) = nnn :=
  BitVec.extractLsb'_append_eq_right

@[simp] theorem fieldNN_encodeXI (c : BitVec 4) (x : VReg) (nn : Byte) : fieldNN (encodeXI c x nn) = nn :=
  BitVec.extractLsb'_append_eq_right

@[simp] theorem fieldX_encodeXI (c : BitVec 4) (x : VReg) (nn : Byte) : fieldX (encodeXI c x nn) = x := by
  have h : (encodeXI c x nn).extractLsb' 8 4 = nibble x := by
    unfold encodeXI; ext i hi; simp; grind
  rw [fieldX, h, nibble_toReg]

@[simp] theorem fieldX_encodeXS (c : BitVec 4) (x : VReg) (sub : Byte) : fieldX (encodeXS c x sub) = x :=
  fieldX_encodeXI c x sub

@[simp] theorem fieldX_encodeXY (c : BitVec 4) (x y : VReg) (sub : BitVec 4) : fieldX (encodeXY c x y sub) = x := by
  have h : (encodeXY c x y sub).extractLsb' 8 4 = nibble x := by
    unfold encodeXY; ext i hi; simp; grind
  rw [fieldX, h, nibble_toReg]

@[simp] theorem fieldY_encodeXY (c : BitVec 4) (x y : VReg) (sub : BitVec 4) : fieldY (encodeXY c x y sub) = y := by
  have h : (encodeXY c x y sub).extractLsb' 4 4 = nibble y := by
    unfold encodeXY; ext i hi; simp; grind
  rw [fieldY, h, nibble_toReg]

@[simp] theorem fieldN_encodeXY (c : BitVec 4) (x y : VReg) (sub : BitVec 4) :
    fieldN (encodeXY c x y sub) = sub.toNat := by
  rw [fieldN, encodeXY, BitVec.extractLsb'_append_eq_right]

/-! ### The fixed bits of each format -/

theorem encodeA_fixed (c : BitVec 4) (nnn : BitVec 12) : encodeA c nnn &&& 0xF000 = c ++ 0#12 := by
  rw [show (0xF000 : Word) = BitVec.allOnes 4 ++ 0#12 from rfl, encodeA, BitVec.and_append]; simp only [BitVec.and_allOnes, BitVec.and_zero]

theorem encodeXI_fixed (c : BitVec 4) (x : VReg) (nn : Byte) : encodeXI c x nn &&& 0xF000 = c ++ 0#4 ++ 0#8 := by
  rw [show (0xF000 : Word) = BitVec.allOnes 4 ++ 0#4 ++ 0#8 from rfl, encodeXI, BitVec.and_append, BitVec.and_append]; simp only [BitVec.and_allOnes, BitVec.and_zero]

theorem encodeXY_fixed (c : BitVec 4) (x y : VReg) (sub : BitVec 4) :
    encodeXY c x y sub &&& 0xF00F = c ++ 0#4 ++ 0#4 ++ sub := by
  rw [show (0xF00F : Word) = BitVec.allOnes 4 ++ 0#4 ++ 0#4 ++ BitVec.allOnes 4 from rfl, encodeXY, BitVec.and_append,
    BitVec.and_append, BitVec.and_append]; simp only [BitVec.and_allOnes, BitVec.and_zero]

theorem encodeXYN_fixed (c : BitVec 4) (x y : VReg) (sub : BitVec 4) :
    encodeXY c x y sub &&& 0xF000 = c ++ 0#4 ++ 0#4 ++ 0#4 := by
  rw [show (0xF000 : Word) = BitVec.allOnes 4 ++ 0#4 ++ 0#4 ++ 0#4 from rfl, encodeXY, BitVec.and_append,
    BitVec.and_append, BitVec.and_append]; simp only [BitVec.and_allOnes, BitVec.and_zero]

theorem encodeXS_fixed (c : BitVec 4) (x : VReg) (sub : Byte) : encodeXS c x sub &&& 0xF0FF = c ++ 0#4 ++ sub := by
  rw [show (0xF0FF : Word) = BitVec.allOnes 4 ++ 0#4 ++ BitVec.allOnes 8 from rfl, encodeXS, BitVec.and_append,
    BitVec.and_append]; simp only [BitVec.and_allOnes, BitVec.and_zero]

/-! ### A word is rebuilt from its fields -/

theorem nibble_fieldX (w : Word) : nibble (fieldX w) = w.extractLsb' 8 4 := by
  apply BitVec.eq_of_toNat_eq
  simp [nibble, fieldX, Fin.ofNat]

theorem nibble_fieldY (w : Word) : nibble (fieldY w) = w.extractLsb' 4 4 := by
  apply BitVec.eq_of_toNat_eq
  simp [nibble, fieldY, Fin.ofNat]

theorem encodeA_fields (w : Word) : encodeA (classOf w) (fieldNNN w) = w := by
  unfold encodeA classOf fieldNNN; ext i hi; simp; grind

theorem encodeXI_fields (w : Word) : encodeXI (classOf w) (fieldX w) (fieldNN w) = w := by
  unfold encodeXI classOf fieldNN; rw [nibble_fieldX]; ext i hi; simp; grind

theorem encodeXY_fields (w : Word) : encodeXY (classOf w) (fieldX w) (fieldY w) (w.extractLsb' 0 4) = w := by
  unfold encodeXY classOf; rw [nibble_fieldX, nibble_fieldY]; ext i hi; simp; grind

theorem fieldN_lt (w : Word) : fieldN w < 16 := (w.extractLsb' 0 4).isLt

theorem ofNat_fieldN (w : Word) : BitVec.ofNat 4 (fieldN w) = w.extractLsb' 0 4 :=
  BitVec.eq_of_toNat_eq (by simp [fieldN])

/-- The class of a word, read through any mask that fixes the class. -/
theorem classOf_and (w m : Word) (h : classOf m = 0xF) : classOf (w &&& m) = classOf w := by
  unfold classOf at h ⊢
  rw [BitVec.extractLsb'_and, h]; exact BitVec.and_allOnes

/-- The sub-operation nibble, read through any mask that fixes it. -/
theorem lowNibble_and (w m : Word) (h : m.extractLsb' 0 4 = 0xF#4) :
    (w &&& m).extractLsb' 0 4 = w.extractLsb' 0 4 := by
  rw [BitVec.extractLsb'_and, h]; exact BitVec.and_allOnes

/-- The sub-operation byte, read through any mask that fixes it. -/
theorem fieldNN_and (w m : Word) (h : fieldNN m = 0xFF) : fieldNN (w &&& m) = fieldNN w := by
  unfold fieldNN at h ⊢
  rw [BitVec.extractLsb'_and, h]; exact BitVec.and_allOnes

/-! ### Decoding by row -/

/-- No word is of two rows: any two rows differ in a bit that both fix. -/
theorem opcodeRows_disjoint :
    opcodeRows.Pairwise (fun p q => (p.pattern ^^^ q.pattern) &&& p.mask &&& q.mask ≠ 0) := by decide

/-- Two rows that one word fits are the same row. -/
theorem row_unique {w : Word} {p q : OpRow} (hp : p ∈ opcodeRows) (hq : q ∈ opcodeRows)
    (fp : w &&& p.mask = p.pattern) (fq : w &&& q.mask = q.pattern) : p = q := by
  let R : OpRow → OpRow → Prop := fun p q => (p.pattern ^^^ q.pattern) &&& p.mask &&& q.mask ≠ 0
  have sym : Std.Symm R := ⟨fun p q h => by
    show (q.pattern ^^^ p.pattern) &&& q.mask &&& p.mask ≠ 0
    rw [BitVec.xor_comm, BitVec.and_assoc, BitVec.and_comm q.mask, ← BitVec.and_assoc]; exact h⟩
  by_contra hne
  refine opcodeRows_disjoint.forall (R := R) hp hq hne ?_
  rw [← fp, ← fq]
  ext i hi
  simp
  grind

/-- The row of a word that fits one. -/
theorem rowOf_of_fits {w : Word} {r : OpRow} (hr : r ∈ opcodeRows) (h : w &&& r.mask = r.pattern) :
    rowOf w = some r := by
  unfold rowOf
  cases hf : opcodeRows.find? (OpRow.fits w) with
  | none => exact absurd (List.find?_eq_none.1 hf r hr) (by simp [OpRow.fits, h])
  | some q =>
    have fq : w &&& q.mask = q.pattern := by simpa [OpRow.fits] using List.find?_some hf
    rw [row_unique (List.mem_of_find?_eq_some hf) hr fq h]

/-- A word that fits a row decodes to that row's instruction (30_encoding.md R105). -/
theorem decodeWord_of_fits {w : Word} {r : OpRow} (b : Bool) (hr : r ∈ opcodeRows) (h : w &&& r.mask = r.pattern) :
    decodeWord b w = .ok (r.build w) := by
  simp [decodeWord, rowOf_of_fits hr h]

/-- Everything decoding can answer. -/
theorem decodeWord_cases (b : Bool) (w : Word) :
    (∃ r ∈ opcodeRows, w &&& r.mask = r.pattern ∧ decodeWord b w = .ok (r.build w)) ∨
    ((∀ r ∈ opcodeRows, w &&& r.mask ≠ r.pattern) ∧
      decodeWord b w = if b = true ∧ classOf w = 0 then .ok .nop else .error (.unknownInstruction w)) := by
  by_cases h : ∃ r ∈ opcodeRows, w &&& r.mask = r.pattern
  · obtain ⟨r, hr, hf⟩ := h
    exact .inl ⟨r, hr, hf, decodeWord_of_fits b hr hf⟩
  · push Not at h
    have hn : rowOf w = none := List.find?_eq_none.2 fun r hr => by simpa [OpRow.fits] using h r hr
    exact .inr ⟨h, by simp [decodeWord, hn]⟩

/-! ### Words and bytes -/

@[simp] theorem wordOfBytes_bytesOfWord (w : Word) : wordOfBytes (w.extractLsb' 8 8) (w.extractLsb' 0 8) = w := by
  unfold wordOfBytes
  ext i hi
  simp
  grind

@[simp] theorem decodeBytes_bytesOfWord (b : Bool) (w : Word) : decodeBytes b (bytesOfWord w) = decodeWord b w := by
  simp [decodeBytes, bytesOfWord]

end Sys2Proof
end

