-- ==== Sys2Proof/Laws/Memory.lean ====
section
/-! SUPPORT. Reads after writes, the canonical form of memory, equality of memories, and the range check. -/

namespace Sys2Proof.Machine.Memory

theorem lookup_put (m : Memory) (a k : Nat) (v : Byte) :
    lookup (put m a v) k = if k = a then some v else lookup m k := by
  induction m with
  | nil => simp only [put, lookup]; grind
  | cons cell m ih =>
    obtain ⟨b, u⟩ := cell
    simp only [put]
    split
    · simp only [lookup]; grind
    · split
      · simp only [lookup]; grind
      · simp only [lookup, ih]; grind

theorem lookup_drop (m : Memory) (a k : Nat) : lookup (drop m a) k = if k = a then none else lookup m k := by
  induction m with
  | nil => simp [drop, lookup]
  | cons cell m ih =>
    obtain ⟨b, u⟩ := cell
    simp only [drop] at ih
    by_cases h : b = a
    · simp only [drop, List.filter_cons, h, beq_self_eq_true, Bool.not_true, Bool.false_eq_true, if_false, ih, lookup]
      grind
    · have hb : (!b == a) = true := by simpa using h
      simp only [drop, List.filter_cons, hb, if_true, lookup, ih]
      grind

/-- A read after a write gives the value written there and the old byte everywhere else. -/
theorem read_write (c : Config) (m : Memory) (a k : Nat) (v : Byte) :
    read c (write c m a v) k = if k = a then v else read c m k := by
  unfold read write
  split <;> simp only [lookup_put, lookup_drop] <;> split <;> simp_all

/-- A read after a span of writes gives the span's byte inside the span and the old byte outside it. -/
theorem read_writeSpan (c : Config) (bs : List Byte) (m : Memory) (a k : Nat) :
    read c (writeSpan c m a bs) k = if a ≤ k ∧ k < a + bs.length then bs.getD (k - a) 0 else read c m k := by
  induction bs generalizing m a with
  | nil => simp only [writeSpan, List.length_nil]; rw [if_neg (by omega)]
  | cons b bs ih =>
    simp only [writeSpan, ih, read_write, List.length_cons]
    by_cases h1 : k = a
    · subst h1; rw [if_neg (by omega), if_pos (by omega)]; simp
    · by_cases h2 : a + 1 ≤ k ∧ k < a + 1 + bs.length
      · rw [if_pos h2, if_pos (by omega), show k - a = (k - (a + 1)) + 1 by omega]; simp
      · rw [if_neg h2, if_neg h1, if_neg (by omega)]

theorem mem_put {m : Memory} {a : Nat} {v : Byte} {cell : Host.Cell} (h : cell ∈ put m a v) :
    cell = (a, v) ∨ cell ∈ m := by
  induction m with
  | nil => simpa [put] using h
  | cons b m ih =>
    simp only [put] at h
    split at h
    · simpa using h
    · split at h <;> rcases List.mem_cons.1 h with h | h
      · exact .inl h
      · exact .inr (List.mem_cons_of_mem _ h)
      · exact .inr (h ▸ List.mem_cons_self)
      · exact (ih h).imp id (List.mem_cons_of_mem _)

theorem put_pairwise {m : Memory} (a : Nat) (v : Byte) (h : m.Pairwise (fun p q => p.1 < q.1)) :
    (put m a v).Pairwise (fun p q => p.1 < q.1) := by
  induction m with
  | nil => simp [put]
  | cons b m ih =>
    obtain ⟨hb, hm⟩ := List.pairwise_cons.1 h
    simp only [put]
    split
    · refine List.pairwise_cons.2 ⟨fun q hq => ?_, h⟩
      rcases List.mem_cons.1 hq with rfl | hq
      · assumption
      · exact Nat.lt_trans (by assumption) (hb q hq)
    · split
      · refine List.pairwise_cons.2 ⟨fun q hq => ?_, hm⟩
        subst_vars; exact hb q hq
      · refine List.pairwise_cons.2 ⟨fun q hq => ?_, ih hm⟩
        rcases mem_put hq with rfl | hq
        · show b.1 < a; omega
        · exact hb q hq

/-- A write inside memory keeps the canonical form. -/
theorem wf_write {c : Config} {m : Memory} {a : Nat} (v : Byte) (ha : a < c.memSize) (h : wf c m) :
    wf c (write c m a v) := by
  unfold write
  split
  · exact ⟨h.1.filter _, fun cell hc => h.2 cell (List.mem_of_mem_filter hc)⟩
  · refine ⟨put_pairwise a v h.1, fun cell hc => ?_⟩
    rcases mem_put hc with rfl | hc
    · exact ⟨ha, by assumption⟩
    · exact h.2 cell hc

/-- A span of writes inside memory keeps the canonical form. -/
theorem wf_writeSpan {c : Config} (bs : List Byte) {m : Memory} {a : Nat} (ha : a + bs.length ≤ c.memSize) (h : wf c m) :
    wf c (writeSpan c m a bs) := by
  induction bs generalizing m a with
  | nil => exact h
  | cons b bs ih =>
    simp only [List.length_cons] at ha
    exact ih (by omega) (wf_write b (by omega) h)

theorem wf_nil (c : Config) : wf c [] := by simp [wf]

theorem lookup_eq_none {m : Memory} {a : Nat} (h : ∀ cell ∈ m, cell.1 ≠ a) : lookup m a = none := by
  induction m with
  | nil => rfl
  | cons b m ih =>
    rw [lookup, if_neg (h b List.mem_cons_self)]
    exact ih (fun cell hc => h cell (List.mem_cons_of_mem _ hc))

/-- In canonical form, the listed cells are exactly the addresses that read otherwise than unlisted. -/
theorem mem_iff_read {c : Config} {m : Memory} (h : wf c m) (a : Nat) (v : Byte) :
    (a, v) ∈ m ↔ read c m a = v ∧ v ≠ c.resetByte a := by
  obtain ⟨hs, hv⟩ := h
  induction m with
  | nil => simp [read, lookup]; exact fun h => h.symm
  | cons b m ih =>
    obtain ⟨hb, hm⟩ := List.pairwise_cons.1 hs
    obtain ⟨k, u⟩ := b
    have hu := (hv (k, u) List.mem_cons_self).2
    by_cases h : k = a
    · subst h
      have hk : ∀ w, (k, w) ∉ m := fun w hw => Nat.lt_irrefl k (hb (k, w) hw)
      simp only [List.mem_cons, Prod.mk.injEq, true_and, hk, or_false, read, lookup, if_true, Option.getD_some]
      exact ⟨fun e => ⟨e.symm, e ▸ hu⟩, fun e => e.1.symm⟩
    · have := ih hm (fun cell hc => hv cell (List.mem_cons_of_mem _ hc))
      simp only [read, lookup, if_neg h] at this ⊢
      rw [← this]
      simp [Ne.symm h]

/-- Two memories in canonical form that read alike everywhere are the same list. -/
theorem ext_of_wf {c : Config} {m n : Memory} (hm : wf c m) (hn : wf c n) (h : ∀ a, read c m a = read c n a) : m = n := by
  have nodup : ∀ {l : Memory}, l.Pairwise (fun p q => p.1 < q.1) → l.Nodup := fun hl => by
    refine hl.imp ?_
    rintro p _ hpq rfl
    exact Nat.lt_irrefl _ hpq
  refine ((List.perm_ext_iff_of_nodup (nodup hm.1) (nodup hn.1)).2 fun cell => ?_).eq_of_pairwise
    (fun _ _ _ _ hab hba => absurd hab (Nat.lt_asymm hba)) hm.1 hn.1
  obtain ⟨a, v⟩ := cell
  rw [mem_iff_read hm, mem_iff_read hn, h]

end Sys2Proof.Machine.Memory

namespace Sys2Proof.Machine

/-- The range check passes exactly when nothing is transferred or the whole transfer is inside memory. -/
theorem checkRange_eq_none_iff (memSize base count : Nat) :
    checkRange memSize base count = none ↔ count = 0 ∨ base + count ≤ memSize := by
  simp only [checkRange, List.find?_eq_none, List.mem_map, List.mem_range, decide_eq_true_eq]
  refine ⟨fun h => ?_, ?_⟩
  · by_contra hc
    exact h (base + (count - 1)) ⟨count - 1, by omega, rfl⟩ (by omega)
  · rintro h _ ⟨k, hk, rfl⟩; omega

/-- The range check reports the first address of the transfer that is not inside memory. -/
theorem checkRange_eq_some_iff (memSize base count a : Nat) :
    checkRange memSize base count = some a ↔ memSize < base + count ∧ a = max base memSize ∧ 0 < count := by
  simp only [checkRange, List.find?_map, Option.map_eq_some_iff, List.find?_range_eq_some, Function.comp_apply,
    decide_eq_true_eq, List.mem_range]
  constructor
  · rintro ⟨k, ⟨h1, h2, h3⟩, rfl⟩
    refine ⟨by omega, ?_, by omega⟩
    by_cases hk : k = 0
    · subst hk; omega
    · have := h3 (k - 1) (by omega)
      simp at this; omega
  · rintro ⟨h1, rfl, h2⟩
    refine ⟨max base memSize - base, ⟨by omega, by omega, fun j hj => ?_⟩, by omega⟩
    simp; omega

end Sys2Proof.Machine
end

