-- ==== Sys2Proof/Laws/NatSet.lean ====
section
/-! SUPPORT. Membership in, canonical form of, and equality of the finite sets of natural numbers. -/

namespace Sys2Proof.Machine.NatSet

@[simp] theorem mem_insert (k a : Nat) (l : List Nat) : a ∈ insert k l ↔ a = k ∨ a ∈ l := by
  induction l with
  | nil => simp [insert]
  | cons b l ih =>
    simp only [insert]
    split
    · simp
    · split
      · subst_vars; simp
      · simp only [List.mem_cons, ih]; tauto

@[simp] theorem mem_erase (k a : Nat) (l : List Nat) : a ∈ erase k l ↔ a ∈ l ∧ a ≠ k := by
  simp [erase]

theorem mem_toggle (k a : Nat) (l : List Nat) : a ∈ toggle k l ↔ if a = k then k ∉ l else a ∈ l := by
  unfold toggle
  by_cases h : k ∈ l <;> by_cases ha : a = k <;> simp_all

theorem insert_pairwise (k : Nat) {l : List Nat} (h : l.Pairwise (· < ·)) : (insert k l).Pairwise (· < ·) := by
  induction l with
  | nil => simp [insert]
  | cons b l ih =>
    obtain ⟨hb, hl⟩ := List.pairwise_cons.1 h
    simp only [insert]
    split
    · exact List.pairwise_cons.2 ⟨fun a ha => by rcases List.mem_cons.1 ha with rfl | ha <;> grind, h⟩
    · split
      · exact h
      · refine List.pairwise_cons.2 ⟨fun a ha => ?_, ih hl⟩
        rcases (mem_insert k a l).1 ha with rfl | ha
        · omega
        · exact hb a ha

theorem erase_pairwise (k : Nat) {l : List Nat} (h : l.Pairwise (· < ·)) : (erase k l).Pairwise (· < ·) :=
  h.filter _

theorem toggle_pairwise (k : Nat) {l : List Nat} (h : l.Pairwise (· < ·)) : (toggle k l).Pairwise (· < ·) := by
  unfold toggle
  split
  · exact erase_pairwise k h
  · exact insert_pairwise k h

theorem wf_nil (bound : Nat) : wf bound [] := by simp [wf]

theorem wf_insert {bound k : Nat} {l : List Nat} (hk : k < bound) (h : wf bound l) : wf bound (insert k l) :=
  ⟨insert_pairwise k h.1, fun a ha => by rcases (mem_insert k a l).1 ha with rfl | ha; exacts [hk, h.2 a ha]⟩

theorem wf_erase {bound : Nat} (k : Nat) {l : List Nat} (h : wf bound l) : wf bound (erase k l) :=
  ⟨erase_pairwise k h.1, fun a ha => h.2 a ((mem_erase k a l).1 ha).1⟩

theorem wf_toggle {bound k : Nat} {l : List Nat} (hk : k < bound) (h : wf bound l) : wf bound (toggle k l) := by
  unfold toggle
  split
  · exact wf_erase k h
  · exact wf_insert hk h

/-- Two sets in canonical form with the same elements are the same list. -/
theorem ext_of_pairwise {l m : List Nat} (hl : l.Pairwise (· < ·)) (hm : m.Pairwise (· < ·))
    (h : ∀ a, a ∈ l ↔ a ∈ m) : l = m :=
  ((List.perm_ext_iff_of_nodup (hl.imp Nat.ne_of_lt) (hm.imp Nat.ne_of_lt)).2 h).eq_of_pairwise
    (fun _ _ _ _ hab hba => absurd hab (Nat.lt_asymm hba)) hl hm

end Sys2Proof.Machine.NatSet
end

