-- ==== Sys2Proof/Laws/State.lean ====
section
/-! SUPPORT. What each update of the state leaves in each field, one lemma per field per update, and in each accessor. -/

namespace Sys2Proof.Machine.State

/-! ### setReg -/

@[simp] theorem setReg_status (s : State) (x : VReg) (b : Byte) : (s.setReg x b).status = s.status := rfl
@[simp] theorem setReg_mem (s : State) (x : VReg) (b : Byte) : (s.setReg x b).mem = s.mem := rfl
@[simp] theorem setReg_v (s : State) (x : VReg) (b : Byte) : (s.setReg x b).v = s.v.set x.val b := rfl
@[simp] theorem setReg_i (s : State) (x : VReg) (b : Byte) : (s.setReg x b).i = s.i := rfl
@[simp] theorem setReg_pc (s : State) (x : VReg) (b : Byte) : (s.setReg x b).pc = s.pc := rfl
@[simp] theorem setReg_stack (s : State) (x : VReg) (b : Byte) : (s.setReg x b).stack = s.stack := rfl
@[simp] theorem setReg_dt (s : State) (x : VReg) (b : Byte) : (s.setReg x b).dt = s.dt := rfl
@[simp] theorem setReg_st (s : State) (x : VReg) (b : Byte) : (s.setReg x b).st = s.st := rfl
@[simp] theorem setReg_flags (s : State) (x : VReg) (b : Byte) : (s.setReg x b).flags = s.flags := rfl
@[simp] theorem setReg_hires (s : State) (x : VReg) (b : Byte) : (s.setReg x b).hires = s.hires := rfl
@[simp] theorem setReg_fb (s : State) (x : VReg) (b : Byte) : (s.setReg x b).fb = s.fb := rfl
@[simp] theorem setReg_keys (s : State) (x : VReg) (b : Byte) : (s.setReg x b).keys = s.keys := rfl
@[simp] theorem setReg_drawCount (s : State) (x : VReg) (b : Byte) : (s.setReg x b).drawCount = s.drawCount := rfl
@[simp] theorem setReg_config (s : State) (x : VReg) (b : Byte) : (s.setReg x b).config = s.config := rfl
@[simp] theorem flagSlot_setReg (s : State) (x : VReg) (b : Byte) (y : VReg) : (s.setReg x b).flagSlot y = s.flagSlot y := rfl
@[simp] theorem readByte_setReg (s : State) (x : VReg) (b : Byte) (k : Nat) : (s.setReg x b).readByte k = s.readByte k := rfl
@[simp] theorem width_setReg (s : State) (x : VReg) (b : Byte) : (s.setReg x b).width = s.width := rfl
@[simp] theorem height_setReg (s : State) (x : VReg) (b : Byte) : (s.setReg x b).height = s.height := rfl
@[simp] theorem keyHeld_setReg (s : State) (x : VReg) (b : Byte) (k : Nat) : (s.setReg x b).keyHeld k = s.keyHeld k := rfl
@[simp] theorem pixel_setReg (s : State) (x : VReg) (b : Byte) (p q : Nat) : (s.setReg x b).pixel p q = s.pixel p q := rfl

/-! ### setRegs -/

@[simp] theorem setRegs_status (s : State) (v : Vector Byte 16) : (s.setRegs v).status = s.status := rfl
@[simp] theorem setRegs_mem (s : State) (v : Vector Byte 16) : (s.setRegs v).mem = s.mem := rfl
@[simp] theorem setRegs_v (s : State) (v : Vector Byte 16) : (s.setRegs v).v = v := rfl
@[simp] theorem setRegs_i (s : State) (v : Vector Byte 16) : (s.setRegs v).i = s.i := rfl
@[simp] theorem setRegs_pc (s : State) (v : Vector Byte 16) : (s.setRegs v).pc = s.pc := rfl
@[simp] theorem setRegs_stack (s : State) (v : Vector Byte 16) : (s.setRegs v).stack = s.stack := rfl
@[simp] theorem setRegs_dt (s : State) (v : Vector Byte 16) : (s.setRegs v).dt = s.dt := rfl
@[simp] theorem setRegs_st (s : State) (v : Vector Byte 16) : (s.setRegs v).st = s.st := rfl
@[simp] theorem setRegs_flags (s : State) (v : Vector Byte 16) : (s.setRegs v).flags = s.flags := rfl
@[simp] theorem setRegs_hires (s : State) (v : Vector Byte 16) : (s.setRegs v).hires = s.hires := rfl
@[simp] theorem setRegs_fb (s : State) (v : Vector Byte 16) : (s.setRegs v).fb = s.fb := rfl
@[simp] theorem setRegs_keys (s : State) (v : Vector Byte 16) : (s.setRegs v).keys = s.keys := rfl
@[simp] theorem setRegs_drawCount (s : State) (v : Vector Byte 16) : (s.setRegs v).drawCount = s.drawCount := rfl
@[simp] theorem setRegs_config (s : State) (v : Vector Byte 16) : (s.setRegs v).config = s.config := rfl
@[simp] theorem flagSlot_setRegs (s : State) (v : Vector Byte 16) (y : VReg) : (s.setRegs v).flagSlot y = s.flagSlot y := rfl
@[simp] theorem readByte_setRegs (s : State) (v : Vector Byte 16) (k : Nat) : (s.setRegs v).readByte k = s.readByte k := rfl
@[simp] theorem width_setRegs (s : State) (v : Vector Byte 16) : (s.setRegs v).width = s.width := rfl
@[simp] theorem height_setRegs (s : State) (v : Vector Byte 16) : (s.setRegs v).height = s.height := rfl
@[simp] theorem keyHeld_setRegs (s : State) (v : Vector Byte 16) (k : Nat) : (s.setRegs v).keyHeld k = s.keyHeld k := rfl
@[simp] theorem pixel_setRegs (s : State) (v : Vector Byte 16) (p q : Nat) : (s.setRegs v).pixel p q = s.pixel p q := rfl

/-! ### setFlags -/

@[simp] theorem setFlags_status (s : State) (f : Vector Byte 16) : (s.setFlags f).status = s.status := rfl
@[simp] theorem setFlags_mem (s : State) (f : Vector Byte 16) : (s.setFlags f).mem = s.mem := rfl
@[simp] theorem setFlags_v (s : State) (f : Vector Byte 16) : (s.setFlags f).v = s.v := rfl
@[simp] theorem setFlags_i (s : State) (f : Vector Byte 16) : (s.setFlags f).i = s.i := rfl
@[simp] theorem setFlags_pc (s : State) (f : Vector Byte 16) : (s.setFlags f).pc = s.pc := rfl
@[simp] theorem setFlags_stack (s : State) (f : Vector Byte 16) : (s.setFlags f).stack = s.stack := rfl
@[simp] theorem setFlags_dt (s : State) (f : Vector Byte 16) : (s.setFlags f).dt = s.dt := rfl
@[simp] theorem setFlags_st (s : State) (f : Vector Byte 16) : (s.setFlags f).st = s.st := rfl
@[simp] theorem setFlags_flags (s : State) (f : Vector Byte 16) : (s.setFlags f).flags = f := rfl
@[simp] theorem setFlags_hires (s : State) (f : Vector Byte 16) : (s.setFlags f).hires = s.hires := rfl
@[simp] theorem setFlags_fb (s : State) (f : Vector Byte 16) : (s.setFlags f).fb = s.fb := rfl
@[simp] theorem setFlags_keys (s : State) (f : Vector Byte 16) : (s.setFlags f).keys = s.keys := rfl
@[simp] theorem setFlags_drawCount (s : State) (f : Vector Byte 16) : (s.setFlags f).drawCount = s.drawCount := rfl
@[simp] theorem setFlags_config (s : State) (f : Vector Byte 16) : (s.setFlags f).config = s.config := rfl
@[simp] theorem reg_setFlags (s : State) (f : Vector Byte 16) (y : VReg) : (s.setFlags f).reg y = s.reg y := rfl
@[simp] theorem readByte_setFlags (s : State) (f : Vector Byte 16) (k : Nat) : (s.setFlags f).readByte k = s.readByte k := rfl
@[simp] theorem width_setFlags (s : State) (f : Vector Byte 16) : (s.setFlags f).width = s.width := rfl
@[simp] theorem height_setFlags (s : State) (f : Vector Byte 16) : (s.setFlags f).height = s.height := rfl
@[simp] theorem keyHeld_setFlags (s : State) (f : Vector Byte 16) (k : Nat) : (s.setFlags f).keyHeld k = s.keyHeld k := rfl
@[simp] theorem pixel_setFlags (s : State) (f : Vector Byte 16) (p q : Nat) : (s.setFlags f).pixel p q = s.pixel p q := rfl

/-! ### setI -/

@[simp] theorem setI_status (s : State) (a : Word) : (s.setI a).status = s.status := rfl
@[simp] theorem setI_mem (s : State) (a : Word) : (s.setI a).mem = s.mem := rfl
@[simp] theorem setI_v (s : State) (a : Word) : (s.setI a).v = s.v := rfl
@[simp] theorem setI_i (s : State) (a : Word) : (s.setI a).i = a := rfl
@[simp] theorem setI_pc (s : State) (a : Word) : (s.setI a).pc = s.pc := rfl
@[simp] theorem setI_stack (s : State) (a : Word) : (s.setI a).stack = s.stack := rfl
@[simp] theorem setI_dt (s : State) (a : Word) : (s.setI a).dt = s.dt := rfl
@[simp] theorem setI_st (s : State) (a : Word) : (s.setI a).st = s.st := rfl
@[simp] theorem setI_flags (s : State) (a : Word) : (s.setI a).flags = s.flags := rfl
@[simp] theorem setI_hires (s : State) (a : Word) : (s.setI a).hires = s.hires := rfl
@[simp] theorem setI_fb (s : State) (a : Word) : (s.setI a).fb = s.fb := rfl
@[simp] theorem setI_keys (s : State) (a : Word) : (s.setI a).keys = s.keys := rfl
@[simp] theorem setI_drawCount (s : State) (a : Word) : (s.setI a).drawCount = s.drawCount := rfl
@[simp] theorem setI_config (s : State) (a : Word) : (s.setI a).config = s.config := rfl
@[simp] theorem reg_setI (s : State) (a : Word) (y : VReg) : (s.setI a).reg y = s.reg y := rfl
@[simp] theorem flagSlot_setI (s : State) (a : Word) (y : VReg) : (s.setI a).flagSlot y = s.flagSlot y := rfl
@[simp] theorem readByte_setI (s : State) (a : Word) (k : Nat) : (s.setI a).readByte k = s.readByte k := rfl
@[simp] theorem width_setI (s : State) (a : Word) : (s.setI a).width = s.width := rfl
@[simp] theorem height_setI (s : State) (a : Word) : (s.setI a).height = s.height := rfl
@[simp] theorem keyHeld_setI (s : State) (a : Word) (k : Nat) : (s.setI a).keyHeld k = s.keyHeld k := rfl
@[simp] theorem pixel_setI (s : State) (a : Word) (p q : Nat) : (s.setI a).pixel p q = s.pixel p q := rfl

/-! ### setPc -/

@[simp] theorem setPc_status (s : State) (a : Word) : (s.setPc a).status = s.status := rfl
@[simp] theorem setPc_mem (s : State) (a : Word) : (s.setPc a).mem = s.mem := rfl
@[simp] theorem setPc_v (s : State) (a : Word) : (s.setPc a).v = s.v := rfl
@[simp] theorem setPc_i (s : State) (a : Word) : (s.setPc a).i = s.i := rfl
@[simp] theorem setPc_pc (s : State) (a : Word) : (s.setPc a).pc = a := rfl
@[simp] theorem setPc_stack (s : State) (a : Word) : (s.setPc a).stack = s.stack := rfl
@[simp] theorem setPc_dt (s : State) (a : Word) : (s.setPc a).dt = s.dt := rfl
@[simp] theorem setPc_st (s : State) (a : Word) : (s.setPc a).st = s.st := rfl
@[simp] theorem setPc_flags (s : State) (a : Word) : (s.setPc a).flags = s.flags := rfl
@[simp] theorem setPc_hires (s : State) (a : Word) : (s.setPc a).hires = s.hires := rfl
@[simp] theorem setPc_fb (s : State) (a : Word) : (s.setPc a).fb = s.fb := rfl
@[simp] theorem setPc_keys (s : State) (a : Word) : (s.setPc a).keys = s.keys := rfl
@[simp] theorem setPc_drawCount (s : State) (a : Word) : (s.setPc a).drawCount = s.drawCount := rfl
@[simp] theorem setPc_config (s : State) (a : Word) : (s.setPc a).config = s.config := rfl
@[simp] theorem reg_setPc (s : State) (a : Word) (y : VReg) : (s.setPc a).reg y = s.reg y := rfl
@[simp] theorem flagSlot_setPc (s : State) (a : Word) (y : VReg) : (s.setPc a).flagSlot y = s.flagSlot y := rfl
@[simp] theorem readByte_setPc (s : State) (a : Word) (k : Nat) : (s.setPc a).readByte k = s.readByte k := rfl
@[simp] theorem width_setPc (s : State) (a : Word) : (s.setPc a).width = s.width := rfl
@[simp] theorem height_setPc (s : State) (a : Word) : (s.setPc a).height = s.height := rfl
@[simp] theorem keyHeld_setPc (s : State) (a : Word) (k : Nat) : (s.setPc a).keyHeld k = s.keyHeld k := rfl
@[simp] theorem pixel_setPc (s : State) (a : Word) (p q : Nat) : (s.setPc a).pixel p q = s.pixel p q := rfl

/-! ### setStack -/

@[simp] theorem setStack_status (s : State) (l : List Word) : (s.setStack l).status = s.status := rfl
@[simp] theorem setStack_mem (s : State) (l : List Word) : (s.setStack l).mem = s.mem := rfl
@[simp] theorem setStack_v (s : State) (l : List Word) : (s.setStack l).v = s.v := rfl
@[simp] theorem setStack_i (s : State) (l : List Word) : (s.setStack l).i = s.i := rfl
@[simp] theorem setStack_pc (s : State) (l : List Word) : (s.setStack l).pc = s.pc := rfl
@[simp] theorem setStack_stack (s : State) (l : List Word) : (s.setStack l).stack = l := rfl
@[simp] theorem setStack_dt (s : State) (l : List Word) : (s.setStack l).dt = s.dt := rfl
@[simp] theorem setStack_st (s : State) (l : List Word) : (s.setStack l).st = s.st := rfl
@[simp] theorem setStack_flags (s : State) (l : List Word) : (s.setStack l).flags = s.flags := rfl
@[simp] theorem setStack_hires (s : State) (l : List Word) : (s.setStack l).hires = s.hires := rfl
@[simp] theorem setStack_fb (s : State) (l : List Word) : (s.setStack l).fb = s.fb := rfl
@[simp] theorem setStack_keys (s : State) (l : List Word) : (s.setStack l).keys = s.keys := rfl
@[simp] theorem setStack_drawCount (s : State) (l : List Word) : (s.setStack l).drawCount = s.drawCount := rfl
@[simp] theorem setStack_config (s : State) (l : List Word) : (s.setStack l).config = s.config := rfl
@[simp] theorem reg_setStack (s : State) (l : List Word) (y : VReg) : (s.setStack l).reg y = s.reg y := rfl
@[simp] theorem flagSlot_setStack (s : State) (l : List Word) (y : VReg) : (s.setStack l).flagSlot y = s.flagSlot y := rfl
@[simp] theorem readByte_setStack (s : State) (l : List Word) (k : Nat) : (s.setStack l).readByte k = s.readByte k := rfl
@[simp] theorem width_setStack (s : State) (l : List Word) : (s.setStack l).width = s.width := rfl
@[simp] theorem height_setStack (s : State) (l : List Word) : (s.setStack l).height = s.height := rfl
@[simp] theorem keyHeld_setStack (s : State) (l : List Word) (k : Nat) : (s.setStack l).keyHeld k = s.keyHeld k := rfl
@[simp] theorem pixel_setStack (s : State) (l : List Word) (p q : Nat) : (s.setStack l).pixel p q = s.pixel p q := rfl

/-! ### setDt -/

@[simp] theorem setDt_status (s : State) (b : Byte) : (s.setDt b).status = s.status := rfl
@[simp] theorem setDt_mem (s : State) (b : Byte) : (s.setDt b).mem = s.mem := rfl
@[simp] theorem setDt_v (s : State) (b : Byte) : (s.setDt b).v = s.v := rfl
@[simp] theorem setDt_i (s : State) (b : Byte) : (s.setDt b).i = s.i := rfl
@[simp] theorem setDt_pc (s : State) (b : Byte) : (s.setDt b).pc = s.pc := rfl
@[simp] theorem setDt_stack (s : State) (b : Byte) : (s.setDt b).stack = s.stack := rfl
@[simp] theorem setDt_dt (s : State) (b : Byte) : (s.setDt b).dt = b := rfl
@[simp] theorem setDt_st (s : State) (b : Byte) : (s.setDt b).st = s.st := rfl
@[simp] theorem setDt_flags (s : State) (b : Byte) : (s.setDt b).flags = s.flags := rfl
@[simp] theorem setDt_hires (s : State) (b : Byte) : (s.setDt b).hires = s.hires := rfl
@[simp] theorem setDt_fb (s : State) (b : Byte) : (s.setDt b).fb = s.fb := rfl
@[simp] theorem setDt_keys (s : State) (b : Byte) : (s.setDt b).keys = s.keys := rfl
@[simp] theorem setDt_drawCount (s : State) (b : Byte) : (s.setDt b).drawCount = s.drawCount := rfl
@[simp] theorem setDt_config (s : State) (b : Byte) : (s.setDt b).config = s.config := rfl
@[simp] theorem reg_setDt (s : State) (b : Byte) (y : VReg) : (s.setDt b).reg y = s.reg y := rfl
@[simp] theorem flagSlot_setDt (s : State) (b : Byte) (y : VReg) : (s.setDt b).flagSlot y = s.flagSlot y := rfl
@[simp] theorem readByte_setDt (s : State) (b : Byte) (k : Nat) : (s.setDt b).readByte k = s.readByte k := rfl
@[simp] theorem width_setDt (s : State) (b : Byte) : (s.setDt b).width = s.width := rfl
@[simp] theorem height_setDt (s : State) (b : Byte) : (s.setDt b).height = s.height := rfl
@[simp] theorem keyHeld_setDt (s : State) (b : Byte) (k : Nat) : (s.setDt b).keyHeld k = s.keyHeld k := rfl
@[simp] theorem pixel_setDt (s : State) (b : Byte) (p q : Nat) : (s.setDt b).pixel p q = s.pixel p q := rfl

/-! ### setSt -/

@[simp] theorem setSt_status (s : State) (b : Byte) : (s.setSt b).status = s.status := rfl
@[simp] theorem setSt_mem (s : State) (b : Byte) : (s.setSt b).mem = s.mem := rfl
@[simp] theorem setSt_v (s : State) (b : Byte) : (s.setSt b).v = s.v := rfl
@[simp] theorem setSt_i (s : State) (b : Byte) : (s.setSt b).i = s.i := rfl
@[simp] theorem setSt_pc (s : State) (b : Byte) : (s.setSt b).pc = s.pc := rfl
@[simp] theorem setSt_stack (s : State) (b : Byte) : (s.setSt b).stack = s.stack := rfl
@[simp] theorem setSt_dt (s : State) (b : Byte) : (s.setSt b).dt = s.dt := rfl
@[simp] theorem setSt_st (s : State) (b : Byte) : (s.setSt b).st = b := rfl
@[simp] theorem setSt_flags (s : State) (b : Byte) : (s.setSt b).flags = s.flags := rfl
@[simp] theorem setSt_hires (s : State) (b : Byte) : (s.setSt b).hires = s.hires := rfl
@[simp] theorem setSt_fb (s : State) (b : Byte) : (s.setSt b).fb = s.fb := rfl
@[simp] theorem setSt_keys (s : State) (b : Byte) : (s.setSt b).keys = s.keys := rfl
@[simp] theorem setSt_drawCount (s : State) (b : Byte) : (s.setSt b).drawCount = s.drawCount := rfl
@[simp] theorem setSt_config (s : State) (b : Byte) : (s.setSt b).config = s.config := rfl
@[simp] theorem reg_setSt (s : State) (b : Byte) (y : VReg) : (s.setSt b).reg y = s.reg y := rfl
@[simp] theorem flagSlot_setSt (s : State) (b : Byte) (y : VReg) : (s.setSt b).flagSlot y = s.flagSlot y := rfl
@[simp] theorem readByte_setSt (s : State) (b : Byte) (k : Nat) : (s.setSt b).readByte k = s.readByte k := rfl
@[simp] theorem width_setSt (s : State) (b : Byte) : (s.setSt b).width = s.width := rfl
@[simp] theorem height_setSt (s : State) (b : Byte) : (s.setSt b).height = s.height := rfl
@[simp] theorem keyHeld_setSt (s : State) (b : Byte) (k : Nat) : (s.setSt b).keyHeld k = s.keyHeld k := rfl
@[simp] theorem pixel_setSt (s : State) (b : Byte) (p q : Nat) : (s.setSt b).pixel p q = s.pixel p q := rfl

/-! ### setStatus -/

@[simp] theorem setStatus_status (s : State) (t : Status) : (s.setStatus t).status = t := rfl
@[simp] theorem setStatus_mem (s : State) (t : Status) : (s.setStatus t).mem = s.mem := rfl
@[simp] theorem setStatus_v (s : State) (t : Status) : (s.setStatus t).v = s.v := rfl
@[simp] theorem setStatus_i (s : State) (t : Status) : (s.setStatus t).i = s.i := rfl
@[simp] theorem setStatus_pc (s : State) (t : Status) : (s.setStatus t).pc = s.pc := rfl
@[simp] theorem setStatus_stack (s : State) (t : Status) : (s.setStatus t).stack = s.stack := rfl
@[simp] theorem setStatus_dt (s : State) (t : Status) : (s.setStatus t).dt = s.dt := rfl
@[simp] theorem setStatus_st (s : State) (t : Status) : (s.setStatus t).st = s.st := rfl
@[simp] theorem setStatus_flags (s : State) (t : Status) : (s.setStatus t).flags = s.flags := rfl
@[simp] theorem setStatus_hires (s : State) (t : Status) : (s.setStatus t).hires = s.hires := rfl
@[simp] theorem setStatus_fb (s : State) (t : Status) : (s.setStatus t).fb = s.fb := rfl
@[simp] theorem setStatus_keys (s : State) (t : Status) : (s.setStatus t).keys = s.keys := rfl
@[simp] theorem setStatus_drawCount (s : State) (t : Status) : (s.setStatus t).drawCount = s.drawCount := rfl
@[simp] theorem setStatus_config (s : State) (t : Status) : (s.setStatus t).config = s.config := rfl
@[simp] theorem reg_setStatus (s : State) (t : Status) (y : VReg) : (s.setStatus t).reg y = s.reg y := rfl
@[simp] theorem flagSlot_setStatus (s : State) (t : Status) (y : VReg) : (s.setStatus t).flagSlot y = s.flagSlot y := rfl
@[simp] theorem readByte_setStatus (s : State) (t : Status) (k : Nat) : (s.setStatus t).readByte k = s.readByte k := rfl
@[simp] theorem width_setStatus (s : State) (t : Status) : (s.setStatus t).width = s.width := rfl
@[simp] theorem height_setStatus (s : State) (t : Status) : (s.setStatus t).height = s.height := rfl
@[simp] theorem keyHeld_setStatus (s : State) (t : Status) (k : Nat) : (s.setStatus t).keyHeld k = s.keyHeld k := rfl
@[simp] theorem pixel_setStatus (s : State) (t : Status) (p q : Nat) : (s.setStatus t).pixel p q = s.pixel p q := rfl

/-! ### setHires -/

@[simp] theorem setHires_status (s : State) (h : Bool) : (s.setHires h).status = s.status := rfl
@[simp] theorem setHires_mem (s : State) (h : Bool) : (s.setHires h).mem = s.mem := rfl
@[simp] theorem setHires_v (s : State) (h : Bool) : (s.setHires h).v = s.v := rfl
@[simp] theorem setHires_i (s : State) (h : Bool) : (s.setHires h).i = s.i := rfl
@[simp] theorem setHires_pc (s : State) (h : Bool) : (s.setHires h).pc = s.pc := rfl
@[simp] theorem setHires_stack (s : State) (h : Bool) : (s.setHires h).stack = s.stack := rfl
@[simp] theorem setHires_dt (s : State) (h : Bool) : (s.setHires h).dt = s.dt := rfl
@[simp] theorem setHires_st (s : State) (h : Bool) : (s.setHires h).st = s.st := rfl
@[simp] theorem setHires_flags (s : State) (h : Bool) : (s.setHires h).flags = s.flags := rfl
@[simp] theorem setHires_hires (s : State) (h : Bool) : (s.setHires h).hires = h := rfl
@[simp] theorem setHires_fb (s : State) (h : Bool) : (s.setHires h).fb = s.fb := rfl
@[simp] theorem setHires_keys (s : State) (h : Bool) : (s.setHires h).keys = s.keys := rfl
@[simp] theorem setHires_drawCount (s : State) (h : Bool) : (s.setHires h).drawCount = s.drawCount := rfl
@[simp] theorem setHires_config (s : State) (h : Bool) : (s.setHires h).config = s.config := rfl
@[simp] theorem reg_setHires (s : State) (h : Bool) (y : VReg) : (s.setHires h).reg y = s.reg y := rfl
@[simp] theorem flagSlot_setHires (s : State) (h : Bool) (y : VReg) : (s.setHires h).flagSlot y = s.flagSlot y := rfl
@[simp] theorem readByte_setHires (s : State) (h : Bool) (k : Nat) : (s.setHires h).readByte k = s.readByte k := rfl
@[simp] theorem keyHeld_setHires (s : State) (h : Bool) (k : Nat) : (s.setHires h).keyHeld k = s.keyHeld k := rfl

/-! ### setFb -/

@[simp] theorem setFb_status (s : State) (l : List Nat) : (s.setFb l).status = s.status := rfl
@[simp] theorem setFb_mem (s : State) (l : List Nat) : (s.setFb l).mem = s.mem := rfl
@[simp] theorem setFb_v (s : State) (l : List Nat) : (s.setFb l).v = s.v := rfl
@[simp] theorem setFb_i (s : State) (l : List Nat) : (s.setFb l).i = s.i := rfl
@[simp] theorem setFb_pc (s : State) (l : List Nat) : (s.setFb l).pc = s.pc := rfl
@[simp] theorem setFb_stack (s : State) (l : List Nat) : (s.setFb l).stack = s.stack := rfl
@[simp] theorem setFb_dt (s : State) (l : List Nat) : (s.setFb l).dt = s.dt := rfl
@[simp] theorem setFb_st (s : State) (l : List Nat) : (s.setFb l).st = s.st := rfl
@[simp] theorem setFb_flags (s : State) (l : List Nat) : (s.setFb l).flags = s.flags := rfl
@[simp] theorem setFb_hires (s : State) (l : List Nat) : (s.setFb l).hires = s.hires := rfl
@[simp] theorem setFb_fb (s : State) (l : List Nat) : (s.setFb l).fb = l := rfl
@[simp] theorem setFb_keys (s : State) (l : List Nat) : (s.setFb l).keys = s.keys := rfl
@[simp] theorem setFb_drawCount (s : State) (l : List Nat) : (s.setFb l).drawCount = s.drawCount := rfl
@[simp] theorem setFb_config (s : State) (l : List Nat) : (s.setFb l).config = s.config := rfl
@[simp] theorem reg_setFb (s : State) (l : List Nat) (y : VReg) : (s.setFb l).reg y = s.reg y := rfl
@[simp] theorem flagSlot_setFb (s : State) (l : List Nat) (y : VReg) : (s.setFb l).flagSlot y = s.flagSlot y := rfl
@[simp] theorem readByte_setFb (s : State) (l : List Nat) (k : Nat) : (s.setFb l).readByte k = s.readByte k := rfl
@[simp] theorem width_setFb (s : State) (l : List Nat) : (s.setFb l).width = s.width := rfl
@[simp] theorem height_setFb (s : State) (l : List Nat) : (s.setFb l).height = s.height := rfl
@[simp] theorem keyHeld_setFb (s : State) (l : List Nat) (k : Nat) : (s.setFb l).keyHeld k = s.keyHeld k := rfl

/-! ### setKeys -/

@[simp] theorem setKeys_status (s : State) (l : List Nat) : (s.setKeys l).status = s.status := rfl
@[simp] theorem setKeys_mem (s : State) (l : List Nat) : (s.setKeys l).mem = s.mem := rfl
@[simp] theorem setKeys_v (s : State) (l : List Nat) : (s.setKeys l).v = s.v := rfl
@[simp] theorem setKeys_i (s : State) (l : List Nat) : (s.setKeys l).i = s.i := rfl
@[simp] theorem setKeys_pc (s : State) (l : List Nat) : (s.setKeys l).pc = s.pc := rfl
@[simp] theorem setKeys_stack (s : State) (l : List Nat) : (s.setKeys l).stack = s.stack := rfl
@[simp] theorem setKeys_dt (s : State) (l : List Nat) : (s.setKeys l).dt = s.dt := rfl
@[simp] theorem setKeys_st (s : State) (l : List Nat) : (s.setKeys l).st = s.st := rfl
@[simp] theorem setKeys_flags (s : State) (l : List Nat) : (s.setKeys l).flags = s.flags := rfl
@[simp] theorem setKeys_hires (s : State) (l : List Nat) : (s.setKeys l).hires = s.hires := rfl
@[simp] theorem setKeys_fb (s : State) (l : List Nat) : (s.setKeys l).fb = s.fb := rfl
@[simp] theorem setKeys_keys (s : State) (l : List Nat) : (s.setKeys l).keys = l := rfl
@[simp] theorem setKeys_drawCount (s : State) (l : List Nat) : (s.setKeys l).drawCount = s.drawCount := rfl
@[simp] theorem setKeys_config (s : State) (l : List Nat) : (s.setKeys l).config = s.config := rfl
@[simp] theorem reg_setKeys (s : State) (l : List Nat) (y : VReg) : (s.setKeys l).reg y = s.reg y := rfl
@[simp] theorem flagSlot_setKeys (s : State) (l : List Nat) (y : VReg) : (s.setKeys l).flagSlot y = s.flagSlot y := rfl
@[simp] theorem readByte_setKeys (s : State) (l : List Nat) (k : Nat) : (s.setKeys l).readByte k = s.readByte k := rfl
@[simp] theorem width_setKeys (s : State) (l : List Nat) : (s.setKeys l).width = s.width := rfl
@[simp] theorem height_setKeys (s : State) (l : List Nat) : (s.setKeys l).height = s.height := rfl
@[simp] theorem pixel_setKeys (s : State) (l : List Nat) (p q : Nat) : (s.setKeys l).pixel p q = s.pixel p q := rfl

/-! ### setMem -/

@[simp] theorem setMem_status (s : State) (m : Memory) : (s.setMem m).status = s.status := rfl
@[simp] theorem setMem_mem (s : State) (m : Memory) : (s.setMem m).mem = m := rfl
@[simp] theorem setMem_v (s : State) (m : Memory) : (s.setMem m).v = s.v := rfl
@[simp] theorem setMem_i (s : State) (m : Memory) : (s.setMem m).i = s.i := rfl
@[simp] theorem setMem_pc (s : State) (m : Memory) : (s.setMem m).pc = s.pc := rfl
@[simp] theorem setMem_stack (s : State) (m : Memory) : (s.setMem m).stack = s.stack := rfl
@[simp] theorem setMem_dt (s : State) (m : Memory) : (s.setMem m).dt = s.dt := rfl
@[simp] theorem setMem_st (s : State) (m : Memory) : (s.setMem m).st = s.st := rfl
@[simp] theorem setMem_flags (s : State) (m : Memory) : (s.setMem m).flags = s.flags := rfl
@[simp] theorem setMem_hires (s : State) (m : Memory) : (s.setMem m).hires = s.hires := rfl
@[simp] theorem setMem_fb (s : State) (m : Memory) : (s.setMem m).fb = s.fb := rfl
@[simp] theorem setMem_keys (s : State) (m : Memory) : (s.setMem m).keys = s.keys := rfl
@[simp] theorem setMem_drawCount (s : State) (m : Memory) : (s.setMem m).drawCount = s.drawCount := rfl
@[simp] theorem setMem_config (s : State) (m : Memory) : (s.setMem m).config = s.config := rfl
@[simp] theorem reg_setMem (s : State) (m : Memory) (y : VReg) : (s.setMem m).reg y = s.reg y := rfl
@[simp] theorem flagSlot_setMem (s : State) (m : Memory) (y : VReg) : (s.setMem m).flagSlot y = s.flagSlot y := rfl
@[simp] theorem width_setMem (s : State) (m : Memory) : (s.setMem m).width = s.width := rfl
@[simp] theorem height_setMem (s : State) (m : Memory) : (s.setMem m).height = s.height := rfl
@[simp] theorem keyHeld_setMem (s : State) (m : Memory) (k : Nat) : (s.setMem m).keyHeld k = s.keyHeld k := rfl
@[simp] theorem pixel_setMem (s : State) (m : Memory) (p q : Nat) : (s.setMem m).pixel p q = s.pixel p q := rfl

/-! ### countDraw -/

@[simp] theorem countDraw_status (s : State) : (s.countDraw).status = s.status := rfl
@[simp] theorem countDraw_mem (s : State) : (s.countDraw).mem = s.mem := rfl
@[simp] theorem countDraw_v (s : State) : (s.countDraw).v = s.v := rfl
@[simp] theorem countDraw_i (s : State) : (s.countDraw).i = s.i := rfl
@[simp] theorem countDraw_pc (s : State) : (s.countDraw).pc = s.pc := rfl
@[simp] theorem countDraw_stack (s : State) : (s.countDraw).stack = s.stack := rfl
@[simp] theorem countDraw_dt (s : State) : (s.countDraw).dt = s.dt := rfl
@[simp] theorem countDraw_st (s : State) : (s.countDraw).st = s.st := rfl
@[simp] theorem countDraw_flags (s : State) : (s.countDraw).flags = s.flags := rfl
@[simp] theorem countDraw_hires (s : State) : (s.countDraw).hires = s.hires := rfl
@[simp] theorem countDraw_fb (s : State) : (s.countDraw).fb = s.fb := rfl
@[simp] theorem countDraw_keys (s : State) : (s.countDraw).keys = s.keys := rfl
@[simp] theorem countDraw_drawCount (s : State) : (s.countDraw).drawCount = s.drawCount + 1 := rfl
@[simp] theorem countDraw_config (s : State) : (s.countDraw).config = s.config := rfl
@[simp] theorem reg_countDraw (s : State) (y : VReg) : (s.countDraw).reg y = s.reg y := rfl
@[simp] theorem flagSlot_countDraw (s : State) (y : VReg) : (s.countDraw).flagSlot y = s.flagSlot y := rfl
@[simp] theorem readByte_countDraw (s : State) (k : Nat) : (s.countDraw).readByte k = s.readByte k := rfl
@[simp] theorem width_countDraw (s : State) : (s.countDraw).width = s.width := rfl
@[simp] theorem height_countDraw (s : State) : (s.countDraw).height = s.height := rfl
@[simp] theorem keyHeld_countDraw (s : State) (k : Nat) : (s.countDraw).keyHeld k = s.keyHeld k := rfl
@[simp] theorem pixel_countDraw (s : State) (p q : Nat) : (s.countDraw).pixel p q = s.pixel p q := rfl

/-! ### advance -/

@[simp] theorem advance_status (s : State) : (s.advance).status = s.status := rfl
@[simp] theorem advance_mem (s : State) : (s.advance).mem = s.mem := rfl
@[simp] theorem advance_v (s : State) : (s.advance).v = s.v := rfl
@[simp] theorem advance_i (s : State) : (s.advance).i = s.i := rfl
@[simp] theorem advance_pc (s : State) : (s.advance).pc = s.pc + 2 := rfl
@[simp] theorem advance_stack (s : State) : (s.advance).stack = s.stack := rfl
@[simp] theorem advance_dt (s : State) : (s.advance).dt = s.dt := rfl
@[simp] theorem advance_st (s : State) : (s.advance).st = s.st := rfl
@[simp] theorem advance_flags (s : State) : (s.advance).flags = s.flags := rfl
@[simp] theorem advance_hires (s : State) : (s.advance).hires = s.hires := rfl
@[simp] theorem advance_fb (s : State) : (s.advance).fb = s.fb := rfl
@[simp] theorem advance_keys (s : State) : (s.advance).keys = s.keys := rfl
@[simp] theorem advance_drawCount (s : State) : (s.advance).drawCount = s.drawCount := rfl
@[simp] theorem advance_config (s : State) : (s.advance).config = s.config := rfl
@[simp] theorem reg_advance (s : State) (y : VReg) : (s.advance).reg y = s.reg y := rfl
@[simp] theorem flagSlot_advance (s : State) (y : VReg) : (s.advance).flagSlot y = s.flagSlot y := rfl
@[simp] theorem readByte_advance (s : State) (k : Nat) : (s.advance).readByte k = s.readByte k := rfl
@[simp] theorem width_advance (s : State) : (s.advance).width = s.width := rfl
@[simp] theorem height_advance (s : State) : (s.advance).height = s.height := rfl
@[simp] theorem keyHeld_advance (s : State) (k : Nat) : (s.advance).keyHeld k = s.keyHeld k := rfl
@[simp] theorem pixel_advance (s : State) (p q : Nat) : (s.advance).pixel p q = s.pixel p q := rfl

/-! ### takeFault -/

@[simp] theorem takeFault_status (s : State) (f : Fault) : (s.takeFault f).status = .faulted f := rfl
@[simp] theorem takeFault_mem (s : State) (f : Fault) : (s.takeFault f).mem = s.mem := rfl
@[simp] theorem takeFault_v (s : State) (f : Fault) : (s.takeFault f).v = s.v := rfl
@[simp] theorem takeFault_i (s : State) (f : Fault) : (s.takeFault f).i = s.i := rfl
@[simp] theorem takeFault_pc (s : State) (f : Fault) : (s.takeFault f).pc = s.pc := rfl
@[simp] theorem takeFault_stack (s : State) (f : Fault) : (s.takeFault f).stack = s.stack := rfl
@[simp] theorem takeFault_dt (s : State) (f : Fault) : (s.takeFault f).dt = s.dt := rfl
@[simp] theorem takeFault_st (s : State) (f : Fault) : (s.takeFault f).st = s.st := rfl
@[simp] theorem takeFault_flags (s : State) (f : Fault) : (s.takeFault f).flags = s.flags := rfl
@[simp] theorem takeFault_hires (s : State) (f : Fault) : (s.takeFault f).hires = s.hires := rfl
@[simp] theorem takeFault_fb (s : State) (f : Fault) : (s.takeFault f).fb = s.fb := rfl
@[simp] theorem takeFault_keys (s : State) (f : Fault) : (s.takeFault f).keys = s.keys := rfl
@[simp] theorem takeFault_drawCount (s : State) (f : Fault) : (s.takeFault f).drawCount = s.drawCount := rfl
@[simp] theorem takeFault_config (s : State) (f : Fault) : (s.takeFault f).config = s.config := rfl
@[simp] theorem reg_takeFault (s : State) (f : Fault) (y : VReg) : (s.takeFault f).reg y = s.reg y := rfl
@[simp] theorem flagSlot_takeFault (s : State) (f : Fault) (y : VReg) : (s.takeFault f).flagSlot y = s.flagSlot y := rfl
@[simp] theorem readByte_takeFault (s : State) (f : Fault) (k : Nat) : (s.takeFault f).readByte k = s.readByte k := rfl
@[simp] theorem width_takeFault (s : State) (f : Fault) : (s.takeFault f).width = s.width := rfl
@[simp] theorem height_takeFault (s : State) (f : Fault) : (s.takeFault f).height = s.height := rfl
@[simp] theorem keyHeld_takeFault (s : State) (f : Fault) (k : Nat) : (s.takeFault f).keyHeld k = s.keyHeld k := rfl
@[simp] theorem pixel_takeFault (s : State) (f : Fault) (p q : Nat) : (s.takeFault f).pixel p q = s.pixel p q := rfl

/-! ### writeBytes -/

@[simp] theorem writeBytes_status (s : State) (a : Nat) (bs : List Byte) : (s.writeBytes a bs).status = s.status := rfl
@[simp] theorem writeBytes_mem (s : State) (a : Nat) (bs : List Byte) : (s.writeBytes a bs).mem = Memory.writeSpan s.config s.mem a bs := rfl
@[simp] theorem writeBytes_v (s : State) (a : Nat) (bs : List Byte) : (s.writeBytes a bs).v = s.v := rfl
@[simp] theorem writeBytes_i (s : State) (a : Nat) (bs : List Byte) : (s.writeBytes a bs).i = s.i := rfl
@[simp] theorem writeBytes_pc (s : State) (a : Nat) (bs : List Byte) : (s.writeBytes a bs).pc = s.pc := rfl
@[simp] theorem writeBytes_stack (s : State) (a : Nat) (bs : List Byte) : (s.writeBytes a bs).stack = s.stack := rfl
@[simp] theorem writeBytes_dt (s : State) (a : Nat) (bs : List Byte) : (s.writeBytes a bs).dt = s.dt := rfl
@[simp] theorem writeBytes_st (s : State) (a : Nat) (bs : List Byte) : (s.writeBytes a bs).st = s.st := rfl
@[simp] theorem writeBytes_flags (s : State) (a : Nat) (bs : List Byte) : (s.writeBytes a bs).flags = s.flags := rfl
@[simp] theorem writeBytes_hires (s : State) (a : Nat) (bs : List Byte) : (s.writeBytes a bs).hires = s.hires := rfl
@[simp] theorem writeBytes_fb (s : State) (a : Nat) (bs : List Byte) : (s.writeBytes a bs).fb = s.fb := rfl
@[simp] theorem writeBytes_keys (s : State) (a : Nat) (bs : List Byte) : (s.writeBytes a bs).keys = s.keys := rfl
@[simp] theorem writeBytes_drawCount (s : State) (a : Nat) (bs : List Byte) : (s.writeBytes a bs).drawCount = s.drawCount := rfl
@[simp] theorem writeBytes_config (s : State) (a : Nat) (bs : List Byte) : (s.writeBytes a bs).config = s.config := rfl
@[simp] theorem reg_writeBytes (s : State) (a : Nat) (bs : List Byte) (y : VReg) : (s.writeBytes a bs).reg y = s.reg y := rfl
@[simp] theorem flagSlot_writeBytes (s : State) (a : Nat) (bs : List Byte) (y : VReg) : (s.writeBytes a bs).flagSlot y = s.flagSlot y := rfl
@[simp] theorem width_writeBytes (s : State) (a : Nat) (bs : List Byte) : (s.writeBytes a bs).width = s.width := rfl
@[simp] theorem height_writeBytes (s : State) (a : Nat) (bs : List Byte) : (s.writeBytes a bs).height = s.height := rfl
@[simp] theorem keyHeld_writeBytes (s : State) (a : Nat) (bs : List Byte) (k : Nat) : (s.writeBytes a bs).keyHeld k = s.keyHeld k := rfl
@[simp] theorem pixel_writeBytes (s : State) (a : Nat) (bs : List Byte) (p q : Nat) : (s.writeBytes a bs).pixel p q = s.pixel p q := rfl

/-! ### writeByte -/

@[simp] theorem writeByte_status (s : State) (a : Nat) (b : Byte) : (s.writeByte a b).status = s.status := rfl
@[simp] theorem writeByte_mem (s : State) (a : Nat) (b : Byte) : (s.writeByte a b).mem = Memory.write s.config s.mem a b := rfl
@[simp] theorem writeByte_v (s : State) (a : Nat) (b : Byte) : (s.writeByte a b).v = s.v := rfl
@[simp] theorem writeByte_i (s : State) (a : Nat) (b : Byte) : (s.writeByte a b).i = s.i := rfl
@[simp] theorem writeByte_pc (s : State) (a : Nat) (b : Byte) : (s.writeByte a b).pc = s.pc := rfl
@[simp] theorem writeByte_stack (s : State) (a : Nat) (b : Byte) : (s.writeByte a b).stack = s.stack := rfl
@[simp] theorem writeByte_dt (s : State) (a : Nat) (b : Byte) : (s.writeByte a b).dt = s.dt := rfl
@[simp] theorem writeByte_st (s : State) (a : Nat) (b : Byte) : (s.writeByte a b).st = s.st := rfl
@[simp] theorem writeByte_flags (s : State) (a : Nat) (b : Byte) : (s.writeByte a b).flags = s.flags := rfl
@[simp] theorem writeByte_hires (s : State) (a : Nat) (b : Byte) : (s.writeByte a b).hires = s.hires := rfl
@[simp] theorem writeByte_fb (s : State) (a : Nat) (b : Byte) : (s.writeByte a b).fb = s.fb := rfl
@[simp] theorem writeByte_keys (s : State) (a : Nat) (b : Byte) : (s.writeByte a b).keys = s.keys := rfl
@[simp] theorem writeByte_drawCount (s : State) (a : Nat) (b : Byte) : (s.writeByte a b).drawCount = s.drawCount := rfl
@[simp] theorem writeByte_config (s : State) (a : Nat) (b : Byte) : (s.writeByte a b).config = s.config := rfl
@[simp] theorem reg_writeByte (s : State) (a : Nat) (b : Byte) (y : VReg) : (s.writeByte a b).reg y = s.reg y := rfl
@[simp] theorem flagSlot_writeByte (s : State) (a : Nat) (b : Byte) (y : VReg) : (s.writeByte a b).flagSlot y = s.flagSlot y := rfl
@[simp] theorem width_writeByte (s : State) (a : Nat) (b : Byte) : (s.writeByte a b).width = s.width := rfl
@[simp] theorem height_writeByte (s : State) (a : Nat) (b : Byte) : (s.writeByte a b).height = s.height := rfl
@[simp] theorem keyHeld_writeByte (s : State) (a : Nat) (b : Byte) (k : Nat) : (s.writeByte a b).keyHeld k = s.keyHeld k := rfl
@[simp] theorem pixel_writeByte (s : State) (a : Nat) (b : Byte) (p q : Nat) : (s.writeByte a b).pixel p q = s.pixel p q := rfl

end Sys2Proof.Machine.State
end

