-- ==== Sys2Proof/Laws/Ops.lean ====
section
/-! SUPPORT. One lemma for each shared operation, saying everything it can do; the provers cite these instead of unfolding. -/

namespace Sys2Proof.Machine

/-! ### Registers and memory -/

theorem State.reg_setReg (s : State) (x y : VReg) (b : Byte) : (s.setReg x b).reg y = if y = x then b else s.reg y := by
  simp only [State.reg, State.setReg, Vector.getElem_set, eq_comm, Fin.ext_iff]

@[simp] theorem State.setReg_reg_self (s : State) (x : VReg) (b : Byte) : (s.setReg x b).reg x = b := by
  simp [State.reg_setReg]

theorem State.readByte_writeBytes (s : State) (a k : Nat) (bs : List Byte) :
    (s.writeBytes a bs).readByte k = if a ≤ k ∧ k < a + bs.length then bs.getD (k - a) 0 else s.readByte k :=
  Memory.read_writeSpan s.config bs s.mem a k

theorem State.readByte_writeByte (s : State) (a k : Nat) (b : Byte) :
    (s.writeByte a b).readByte k = if k = a then b else s.readByte k :=
  Memory.read_write s.config s.mem a k b

/-- What the bulk copy leaves in each place. -/
theorem copyUpTo_getElem (x k : VReg) (src : VReg → Byte) (dst : Vector Byte 16) :
    (copyUpTo x src dst)[k.val] = if k ≤ x then src k else dst[k.val] := by
  simp [copyUpTo]

theorem State.regsUpTo_length (s : State) (x : VReg) : (s.regsUpTo x).length = x.val + 1 := by
  simp [State.regsUpTo]

theorem State.regsUpTo_getD (s : State) (x k : VReg) (h : k ≤ x) : (s.regsUpTo x).getD k.val 0 = s.reg k := by
  have hk : k.val < (s.regsUpTo x).length := by rw [State.regsUpTo_length]; exact Nat.lt_succ_of_le h
  rw [List.getD_eq_getElem _ _ hk]
  simp [State.regsUpTo, State.reg]

/-! ### Flags and results -/

/-- `WriteRF`: the flag wins VF unless the result is written last. -/
theorem State.reg_writeRF (s : State) (x y : VReg) (r f : Byte) :
    (s.writeRF x r f).reg y =
      if y = vF ∧ (x ≠ vF ∨ s.config.vfOrder = .flagLast) then f else if y = x then r else s.reg y := by
  unfold State.writeRF
  split <;> simp only [State.reg_setReg] <;> grind

theorem State.reg_writeLogic (s : State) (x y : VReg) (r : Byte) :
    (s.writeLogic x r).reg y =
      if s.config.logicClearsVf = true ∧ y = vF ∧ (x ≠ vF ∨ s.config.vfOrder = .flagLast) then 0
      else if y = x then r else s.reg y := by
  unfold State.writeLogic
  split <;> simp only [State.reg_writeRF, State.reg_setReg] <;> grind

theorem sumByte_toNat (a b : Byte) : (sumByte a b).toNat = (a.toNat + b.toNat) % 256 := by simp [sumByte]

theorem differenceByte_toNat (a b : Byte) : (differenceByte a b).toNat = (a.toNat + 256 - b.toNat) % 256 := by
  simp [differenceByte]

theorem shiftRightByte_toNat (a : Byte) : (shiftRightByte a).toNat = a.toNat / 2 := by
  have := a.isLt
  simp only [shiftRightByte, BitVec.toNat_ofNat]; omega

theorem shiftLeftByte_toNat (a : Byte) : (shiftLeftByte a).toNat = a.toNat * 2 % 256 := by simp [shiftLeftByte]

theorem shiftedOutRight_iff (a : Byte) : shiftedOutRight a = true ↔ a.toNat % 2 = 1 := by
  simp [shiftedOutRight, BitVec.getLsbD, Nat.testBit_zero]

theorem shiftedOutLeft_iff (a : Byte) : shiftedOutLeft a = true ↔ 128 ≤ a.toNat := by
  have := a.isLt
  simp only [shiftedOutLeft, BitVec.getLsbD, Nat.testBit_eq_decide_div_mod_eq, decide_eq_true_eq]; omega

/-! ### Control -/

theorem State.skipIf_pc (s : State) (b : Bool) : (s.skipIf b).pc = if b then s.pc + 2 else s.pc := by cases b <;> rfl

/-! ### Faults and checked transfers -/

/-- Raising a fault is a next state that differs in the status alone. -/
@[simp] theorem raise_eq (f : Fault) (s : State) : raise f s = .next { s with status := .faulted f } := rfl

/-- A checked transfer that is inside memory goes on. -/
theorem guardRange_of_fits {base count : Nat} {s : State} (t : State)
    (h : count = 0 ∨ base + count ≤ s.config.memSize) : guardRange base count s t = .next t := by
  unfold guardRange
  rw [(checkRange_eq_none_iff _ _ _).2 h]

/-- A checked transfer that leaves memory takes the fault of its first bad address. -/
theorem guardRange_of_leaves {base count : Nat} {s : State} (t : State) (hc : 0 < count)
    (h : s.config.memSize < base + count) :
    guardRange base count s t = raise (.outOfBounds (max base s.config.memSize)) s := by
  unfold guardRange
  rw [(checkRange_eq_some_iff _ _ _ _).2 ⟨h, rfl, hc⟩]

/-- Everything a checked transfer can answer. -/
theorem guardRange_cases {base count : Nat} {s t : State} {r : Result} (h : guardRange base count s t = r) :
    ((count = 0 ∨ base + count ≤ s.config.memSize) ∧ r = .next t) ∨
    (0 < count ∧ s.config.memSize < base + count ∧
      r = .next { s with status := .faulted (.outOfBounds (max base s.config.memSize)) }) := by
  by_cases hf : count = 0 ∨ base + count ≤ s.config.memSize
  · exact .inl ⟨hf, by rw [← h, guardRange_of_fits t hf]⟩
  · refine .inr ⟨by omega, by omega, ?_⟩
    rw [← h, guardRange_of_leaves t (by omega) (by omega), raise_eq]

/-! ### Fetching -/

/-- The fetch of a window inside memory. -/
theorem State.fetch_of_fits {s : State} (h : s.pc.toNat + 1 < s.config.memSize) :
    s.fetch = .ok (wordOfBytes (s.readByte s.pc.toNat) (s.readByte (s.pc.toNat + 1))) := by
  simp only [State.fetch]; rw [if_neg (by omega)]

/-- The fetch of a window that is not inside memory. -/
theorem State.fetch_of_leaves {s : State} (h : s.config.memSize ≤ s.pc.toNat + 1) :
    s.fetch = .error (.outOfBounds (if s.config.memSize ≤ s.pc.toNat then s.pc.toNat else s.pc.toNat + 1)) := by
  simp only [State.fetch]; rw [if_pos h]

/-! ### Drawing -/

theorem State.width_pos (s : State) : 0 < s.width := by unfold State.width; split <;> decide

theorem State.height_pos (s : State) : 0 < s.height := by unfold State.height; split <;> decide

/-- Two pixels inside the grid with the same cell are the same pixel. -/
theorem State.cell_inj {s : State} {x y x' y' : Nat} (hx : x < s.width) (hx' : x' < s.width)
    (h : s.cell x y = s.cell x' y') : x = x' ∧ y = y' := by
  simp only [State.cell] at h
  have hy : y = y' := by
    have := congrArg (· / s.width) h
    simpa [Nat.add_comm, Nat.add_mul_div_right _ _ s.width_pos, Nat.div_eq_of_lt hx, Nat.div_eq_of_lt hx'] using this
  subst hy
  exact ⟨by omega, rfl⟩

theorem State.cell_lt {s : State} {x y : Nat} (hx : x < s.width) (hy : y < s.height) :
    s.cell x y < s.width * s.height := by
  simp only [State.cell]
  calc y * s.width + x < y * s.width + s.width := by omega
    _ = (y + 1) * s.width := by ring
    _ ≤ s.height * s.width := Nat.mul_le_mul_right _ hy
    _ = s.width * s.height := Nat.mul_comm _ _

theorem State.spriteCell_lt (s : State) (x0 y0 r c : Nat) : s.spriteCell x0 y0 r c < s.width * s.height :=
  State.cell_lt (Nat.mod_lt _ s.width_pos) (Nat.mod_lt _ s.height_pos)

/-- The cells a sprite draws: one for each of its 1 bits. -/
theorem State.mem_spriteCells (s : State) (x0 y0 k : Nat) (f : SpriteForm) :
    k ∈ s.spriteCells x0 y0 f ↔
      ∃ r < f.rows, ∃ c < f.cols, s.spriteBit f r c = true ∧ s.spriteCell x0 y0 r c = k := by
  simp only [State.spriteCells, List.mem_flatMap, List.mem_range, List.mem_map, List.mem_filter]
  grind

/-- A sprite at most 16 by 16 never overlaps itself under wrap (44_display.md R207). -/
theorem State.spriteCells_nodup (s : State) (x0 y0 : Nat) (f : SpriteForm) (hc : f.cols ≤ 16) (hr : f.rows ≤ 16) :
    (s.spriteCells x0 y0 f).Nodup := by
  have hw : 64 ≤ s.width := by unfold State.width; split <;> decide
  have hh : 32 ≤ s.height := by unfold State.height; split <;> decide
  have modInj : ∀ {a i j n : Nat}, i < 16 → j < 16 → 16 ≤ n → (a + i) % n = (a + j) % n → i = j := by
    intro a i j n hi hj hn h
    have := Nat.ModEq.add_left_cancel' a (show a + i ≡ a + j [MOD n] from h)
    exact Nat.ModEq.eq_of_lt_of_lt this (by omega) (by omega)
  have inj : ∀ {r c r' c' : Nat}, r < 16 → r' < 16 → c < 16 → c' < 16 →
      s.spriteCell x0 y0 r c = s.spriteCell x0 y0 r' c' → r = r' ∧ c = c' := by
    intro r c r' c' h1 h2 h3 h4 h
    obtain ⟨hx, hy⟩ := State.cell_inj (Nat.mod_lt _ s.width_pos) (Nat.mod_lt _ s.width_pos) h
    exact ⟨modInj h1 h2 (by omega) hy, modInj h3 h4 (by omega) hx⟩
  refine List.nodup_flatMap.2 ⟨fun r hr' => ?_, ?_⟩
  · refine (List.nodup_range.filter _).map_on fun c hc1 c' hc2 h => ?_
    simp only [List.mem_filter, List.mem_range] at hr' hc1 hc2
    exact (inj (by omega) (by omega) (by omega) (by omega) h).2
  · refine List.nodup_range.imp_of_mem fun {r r'} h1 h2 hne => ?_
    simp only [Function.onFun, List.disjoint_left, List.mem_map, List.mem_filter, List.mem_range] at h1 h2 ⊢
    rintro _ ⟨c, ⟨hc1, -⟩, rfl⟩ ⟨c', ⟨hc2, -⟩, h⟩
    exact hne (inj (by omega) (by omega) (by omega) (by omega) h.symm).1

/-- What a blit of distinct cells leaves: each of them flipped, no other touched, and the flag set exactly when one of
them was lit. -/
theorem blit_spec (fb cells : List Nat) (h : cells.Nodup) :
    (∀ k, k ∈ (blit fb cells).1 ↔ if k ∈ cells then k ∉ fb else k ∈ fb) ∧
    ((blit fb cells).2 = true ↔ ∃ k ∈ cells, k ∈ fb) := by
  have gen : ∀ (cells fb : List Nat) (b : Bool), cells.Nodup →
      let p := cells.foldl (fun (p : List Nat × Bool) k => (NatSet.toggle k p.1, p.2 || p.1.contains k)) (fb, b)
      (∀ k, k ∈ p.1 ↔ if k ∈ cells then k ∉ fb else k ∈ fb) ∧ (p.2 = true ↔ b = true ∨ ∃ k ∈ cells, k ∈ fb) := by
    intro cells
    induction cells with
    | nil => intro fb b _; simp
    | cons a cells ih =>
      intro fb b hn
      obtain ⟨ha, hn⟩ := List.nodup_cons.1 hn
      obtain ⟨h1, h2⟩ := ih (NatSet.toggle a fb) (b || fb.contains a) hn
      refine ⟨fun k => ?_, ?_⟩
      · refine (h1 k).trans ?_
        rw [NatSet.mem_toggle]
        by_cases hk : k = a
        · subst hk; simp [ha]
        · simp [hk]
      · refine h2.trans ?_
        simp only [Bool.or_eq_true, List.contains_iff_mem, List.mem_cons, NatSet.mem_toggle]
        constructor
        · rintro ((hb | hb) | ⟨k, hk, hm⟩)
          · exact .inl hb
          · exact .inr ⟨a, .inl rfl, hb⟩
          · have hne : k ≠ a := by rintro rfl; exact ha hk
            rw [if_neg hne] at hm
            exact .inr ⟨k, .inr hk, hm⟩
        · rintro (hb | ⟨k, rfl | hk, hm⟩)
          · exact .inl (.inl hb)
          · exact .inl (.inr hm)
          · have hne : k ≠ a := by rintro rfl; exact ha hk
            exact .inr ⟨k, hk, by rw [if_neg hne]; exact hm⟩
  obtain ⟨h1, h2⟩ := gen cells fb false h
  exact ⟨h1, h2.trans (by simp)⟩

/-- A blit keeps the canonical form. -/
theorem blit_wf {bound : Nat} {fb cells : List Nat} (hf : NatSet.wf bound fb) (hc : ∀ k ∈ cells, k < bound) :
    NatSet.wf bound (blit fb cells).1 := by
  have gen : ∀ (cells fb : List Nat) (b : Bool), (∀ k ∈ cells, k < bound) → NatSet.wf bound fb →
      NatSet.wf bound
        (cells.foldl (fun (p : List Nat × Bool) k => (NatSet.toggle k p.1, p.2 || p.1.contains k)) (fb, b)).1 := by
    intro cells
    induction cells with
    | nil => intro fb b _ h; exact h
    | cons a cells ih =>
      intro fb b hc h
      exact ih _ _ (fun k hk => hc k (List.mem_cons_of_mem _ hk)) (NatSet.wf_toggle (hc a List.mem_cons_self) h)
  exact gen cells fb false hc hf

/-- The forms a row count below 16 selects are at most 16 by 16. -/
theorem State.spriteForm_bounds {s : State} {n : Nat} {f : SpriteForm} (hn : n < 16) (h : s.spriteForm n = some f) :
    f.cols ≤ 16 ∧ f.rows ≤ 16 := by
  unfold State.spriteForm at h
  grind

/-! ### The fields that writeRF leaves -/

@[simp] theorem State.writeRF_status (s : State) (x : VReg) (r f : Byte) : (s.writeRF x r f).status = s.status := by unfold State.writeRF; split <;> rfl
@[simp] theorem State.writeRF_mem (s : State) (x : VReg) (r f : Byte) : (s.writeRF x r f).mem = s.mem := by unfold State.writeRF; split <;> rfl
@[simp] theorem State.writeRF_i (s : State) (x : VReg) (r f : Byte) : (s.writeRF x r f).i = s.i := by unfold State.writeRF; split <;> rfl
@[simp] theorem State.writeRF_pc (s : State) (x : VReg) (r f : Byte) : (s.writeRF x r f).pc = s.pc := by unfold State.writeRF; split <;> rfl
@[simp] theorem State.writeRF_stack (s : State) (x : VReg) (r f : Byte) : (s.writeRF x r f).stack = s.stack := by unfold State.writeRF; split <;> rfl
@[simp] theorem State.writeRF_dt (s : State) (x : VReg) (r f : Byte) : (s.writeRF x r f).dt = s.dt := by unfold State.writeRF; split <;> rfl
@[simp] theorem State.writeRF_st (s : State) (x : VReg) (r f : Byte) : (s.writeRF x r f).st = s.st := by unfold State.writeRF; split <;> rfl
@[simp] theorem State.writeRF_flags (s : State) (x : VReg) (r f : Byte) : (s.writeRF x r f).flags = s.flags := by unfold State.writeRF; split <;> rfl
@[simp] theorem State.writeRF_hires (s : State) (x : VReg) (r f : Byte) : (s.writeRF x r f).hires = s.hires := by unfold State.writeRF; split <;> rfl
@[simp] theorem State.writeRF_fb (s : State) (x : VReg) (r f : Byte) : (s.writeRF x r f).fb = s.fb := by unfold State.writeRF; split <;> rfl
@[simp] theorem State.writeRF_keys (s : State) (x : VReg) (r f : Byte) : (s.writeRF x r f).keys = s.keys := by unfold State.writeRF; split <;> rfl
@[simp] theorem State.writeRF_drawCount (s : State) (x : VReg) (r f : Byte) : (s.writeRF x r f).drawCount = s.drawCount := by unfold State.writeRF; split <;> rfl
@[simp] theorem State.writeRF_config (s : State) (x : VReg) (r f : Byte) : (s.writeRF x r f).config = s.config := by unfold State.writeRF; split <;> rfl

/-! ### The fields that writeLogic leaves -/

@[simp] theorem State.writeLogic_status (s : State) (x : VReg) (r : Byte) : (s.writeLogic x r).status = s.status := by unfold State.writeLogic State.writeRF; (repeat' split) <;> rfl
@[simp] theorem State.writeLogic_mem (s : State) (x : VReg) (r : Byte) : (s.writeLogic x r).mem = s.mem := by unfold State.writeLogic State.writeRF; (repeat' split) <;> rfl
@[simp] theorem State.writeLogic_i (s : State) (x : VReg) (r : Byte) : (s.writeLogic x r).i = s.i := by unfold State.writeLogic State.writeRF; (repeat' split) <;> rfl
@[simp] theorem State.writeLogic_pc (s : State) (x : VReg) (r : Byte) : (s.writeLogic x r).pc = s.pc := by unfold State.writeLogic State.writeRF; (repeat' split) <;> rfl
@[simp] theorem State.writeLogic_stack (s : State) (x : VReg) (r : Byte) : (s.writeLogic x r).stack = s.stack := by unfold State.writeLogic State.writeRF; (repeat' split) <;> rfl
@[simp] theorem State.writeLogic_dt (s : State) (x : VReg) (r : Byte) : (s.writeLogic x r).dt = s.dt := by unfold State.writeLogic State.writeRF; (repeat' split) <;> rfl
@[simp] theorem State.writeLogic_st (s : State) (x : VReg) (r : Byte) : (s.writeLogic x r).st = s.st := by unfold State.writeLogic State.writeRF; (repeat' split) <;> rfl
@[simp] theorem State.writeLogic_flags (s : State) (x : VReg) (r : Byte) : (s.writeLogic x r).flags = s.flags := by unfold State.writeLogic State.writeRF; (repeat' split) <;> rfl
@[simp] theorem State.writeLogic_hires (s : State) (x : VReg) (r : Byte) : (s.writeLogic x r).hires = s.hires := by unfold State.writeLogic State.writeRF; (repeat' split) <;> rfl
@[simp] theorem State.writeLogic_fb (s : State) (x : VReg) (r : Byte) : (s.writeLogic x r).fb = s.fb := by unfold State.writeLogic State.writeRF; (repeat' split) <;> rfl
@[simp] theorem State.writeLogic_keys (s : State) (x : VReg) (r : Byte) : (s.writeLogic x r).keys = s.keys := by unfold State.writeLogic State.writeRF; (repeat' split) <;> rfl
@[simp] theorem State.writeLogic_drawCount (s : State) (x : VReg) (r : Byte) : (s.writeLogic x r).drawCount = s.drawCount := by unfold State.writeLogic State.writeRF; (repeat' split) <;> rfl
@[simp] theorem State.writeLogic_config (s : State) (x : VReg) (r : Byte) : (s.writeLogic x r).config = s.config := by unfold State.writeLogic State.writeRF; (repeat' split) <;> rfl

/-! ### The fields that skipIf leaves -/

@[simp] theorem State.skipIf_status (s : State) (b : Bool) : (s.skipIf b).status = s.status := by cases b <;> rfl
@[simp] theorem State.skipIf_mem (s : State) (b : Bool) : (s.skipIf b).mem = s.mem := by cases b <;> rfl
@[simp] theorem State.skipIf_v (s : State) (b : Bool) : (s.skipIf b).v = s.v := by cases b <;> rfl
@[simp] theorem State.skipIf_i (s : State) (b : Bool) : (s.skipIf b).i = s.i := by cases b <;> rfl
@[simp] theorem State.skipIf_stack (s : State) (b : Bool) : (s.skipIf b).stack = s.stack := by cases b <;> rfl
@[simp] theorem State.skipIf_dt (s : State) (b : Bool) : (s.skipIf b).dt = s.dt := by cases b <;> rfl
@[simp] theorem State.skipIf_st (s : State) (b : Bool) : (s.skipIf b).st = s.st := by cases b <;> rfl
@[simp] theorem State.skipIf_flags (s : State) (b : Bool) : (s.skipIf b).flags = s.flags := by cases b <;> rfl
@[simp] theorem State.skipIf_hires (s : State) (b : Bool) : (s.skipIf b).hires = s.hires := by cases b <;> rfl
@[simp] theorem State.skipIf_fb (s : State) (b : Bool) : (s.skipIf b).fb = s.fb := by cases b <;> rfl
@[simp] theorem State.skipIf_keys (s : State) (b : Bool) : (s.skipIf b).keys = s.keys := by cases b <;> rfl
@[simp] theorem State.skipIf_drawCount (s : State) (b : Bool) : (s.skipIf b).drawCount = s.drawCount := by cases b <;> rfl
@[simp] theorem State.skipIf_config (s : State) (b : Bool) : (s.skipIf b).config = s.config := by cases b <;> rfl

/-! ### The fields that draw leaves -/

@[simp] theorem State.draw_status (s : State) (x y : VReg) (f : SpriteForm) : (s.draw x y f).status = s.status := rfl
@[simp] theorem State.draw_mem (s : State) (x y : VReg) (f : SpriteForm) : (s.draw x y f).mem = s.mem := rfl
@[simp] theorem State.draw_i (s : State) (x y : VReg) (f : SpriteForm) : (s.draw x y f).i = s.i := rfl
@[simp] theorem State.draw_pc (s : State) (x y : VReg) (f : SpriteForm) : (s.draw x y f).pc = s.pc := rfl
@[simp] theorem State.draw_stack (s : State) (x y : VReg) (f : SpriteForm) : (s.draw x y f).stack = s.stack := rfl
@[simp] theorem State.draw_dt (s : State) (x y : VReg) (f : SpriteForm) : (s.draw x y f).dt = s.dt := rfl
@[simp] theorem State.draw_st (s : State) (x y : VReg) (f : SpriteForm) : (s.draw x y f).st = s.st := rfl
@[simp] theorem State.draw_flags (s : State) (x y : VReg) (f : SpriteForm) : (s.draw x y f).flags = s.flags := rfl
@[simp] theorem State.draw_hires (s : State) (x y : VReg) (f : SpriteForm) : (s.draw x y f).hires = s.hires := rfl
@[simp] theorem State.draw_keys (s : State) (x y : VReg) (f : SpriteForm) : (s.draw x y f).keys = s.keys := rfl
@[simp] theorem State.draw_drawCount (s : State) (x y : VReg) (f : SpriteForm) : (s.draw x y f).drawCount = s.drawCount := rfl
@[simp] theorem State.draw_config (s : State) (x y : VReg) (f : SpriteForm) : (s.draw x y f).config = s.config := rfl

/-! ### The fields that clearScreen leaves -/

@[simp] theorem State.clearScreen_status (s : State) : (s.clearScreen).status = s.status := rfl
@[simp] theorem State.clearScreen_mem (s : State) : (s.clearScreen).mem = s.mem := rfl
@[simp] theorem State.clearScreen_v (s : State) : (s.clearScreen).v = s.v := rfl
@[simp] theorem State.clearScreen_i (s : State) : (s.clearScreen).i = s.i := rfl
@[simp] theorem State.clearScreen_pc (s : State) : (s.clearScreen).pc = s.pc := rfl
@[simp] theorem State.clearScreen_stack (s : State) : (s.clearScreen).stack = s.stack := rfl
@[simp] theorem State.clearScreen_dt (s : State) : (s.clearScreen).dt = s.dt := rfl
@[simp] theorem State.clearScreen_st (s : State) : (s.clearScreen).st = s.st := rfl
@[simp] theorem State.clearScreen_flags (s : State) : (s.clearScreen).flags = s.flags := rfl
@[simp] theorem State.clearScreen_hires (s : State) : (s.clearScreen).hires = s.hires := rfl
@[simp] theorem State.clearScreen_keys (s : State) : (s.clearScreen).keys = s.keys := rfl
@[simp] theorem State.clearScreen_drawCount (s : State) : (s.clearScreen).drawCount = s.drawCount := rfl
@[simp] theorem State.clearScreen_config (s : State) : (s.clearScreen).config = s.config := rfl

end Sys2Proof.Machine
end

