-- ==== Sys2Proof/Laws/Exec.lean ====
section
/-! SUPPORT. Everything an instruction, a step in `ready` and a host command can do, said once: the inversion lemmas that the proofs cite. -/

namespace Sys2Proof.Machine

/-- `t` is what the instruction's own effect leaves of `s`: it ran without a fault. -/
def Completes (i : Instr) (s t : State) : Prop :=
  match i with
  | .nop => t = s.advance
  | .cls => t = s.advance.clearScreen
  | .ret => ∃ a l, s.stack = a :: l ∧ t = (s.setStack l).setPc a
  | .high => t = if s.hires && !s.config.hiresReentryClears then s.advance else (s.advance.setHires true).clearScreen
  | .jp n => t = s.setPc (addressOperand n)
  | .call n => s.config.stackLimit ≠ some s.stack.length ∧
      t = (s.setStack (s.advance.pc :: s.stack)).setPc (addressOperand n)
  | .seImm x nn => t = s.advance.skipIf (s.reg x == nn)
  | .sneImm x nn => t = s.advance.skipIf (s.reg x != nn)
  | .seReg x y => t = s.advance.skipIf (s.reg x == s.reg y)
  | .ldImm x nn => t = s.advance.setReg x nn
  | .addImm x nn => t = s.advance.setReg x (sumByte (s.reg x) nn)
  | .ldReg x y => t = s.advance.setReg x (s.reg y)
  | .orReg x y => t = s.advance.writeLogic x (s.reg x ||| s.reg y)
  | .andReg x y => t = s.advance.writeLogic x (s.reg x &&& s.reg y)
  | .xorReg x y => t = s.advance.writeLogic x (s.reg x ^^^ s.reg y)
  | .addReg x y => t = s.advance.writeRF x (sumByte (s.reg x) (s.reg y)) (flagByte (carry (s.reg x) (s.reg y)))
  | .subReg x y =>
    t = s.advance.writeRF x (differenceByte (s.reg x) (s.reg y)) (flagByte (notBorrow (s.reg x) (s.reg y)))
  | .shr x y =>
    t = s.advance.writeRF x (shiftRightByte (s.shiftOperand x y)) (flagByte (shiftedOutRight (s.shiftOperand x y)))
  | .subnReg x y =>
    t = s.advance.writeRF x (differenceByte (s.reg y) (s.reg x)) (flagByte (notBorrow (s.reg y) (s.reg x)))
  | .shl x y =>
    t = s.advance.writeRF x (shiftLeftByte (s.shiftOperand x y)) (flagByte (shiftedOutLeft (s.shiftOperand x y)))
  | .sneReg x y => t = s.advance.skipIf (s.reg x != s.reg y)
  | .ldI n => t = s.advance.setI (addressOperand n)
  | .jpV0 n => t = s.setPc (BitVec.ofNat 16 (n.toNat + (s.reg 0).toNat))
  | .rnd x nn => t = (s.advance.setReg x (Config.freeDraw s.drawCount &&& nn)).countDraw
  | .drw x y n => ∃ f, s.spriteForm n = some f ∧ (f.size = 0 ∨ s.i.toNat + f.size ≤ s.config.memSize) ∧
      t = s.advance.draw x y f
  | .skp x => t = s.advance.skipIf (s.keyHeld (s.keyOperand x))
  | .sknp x => t = s.advance.skipIf (!s.keyHeld (s.keyOperand x))
  | .ldVxDt x => t = s.advance.setReg x s.dt
  | .ldVxK x => t = s.advance.setStatus (.awaitingInput x)
  | .ldDtVx x => t = s.advance.setDt (s.reg x)
  | .ldStVx x => t = s.advance.setSt (s.reg x)
  | .addI x => t = s.advance.setI (BitVec.ofNat 16 (s.i.toNat + (s.reg x).toNat))
  | .ldF x => t = s.advance.setI (glyphAddress (s.digitOperand x))
  | .ldB x => s.i.toNat + 3 ≤ s.config.memSize ∧
      t = s.advance.writeBytes (s.dataAddress 0) (bcdDigits (s.reg x))
  | .ldMemVx x => s.i.toNat + (x.val + 1) ≤ s.config.memSize ∧
      t = (s.advance.writeBytes (s.dataAddress 0) (s.regsUpTo x)).setI (s.indexPast x)
  | .ldVxMem x => s.i.toNat + (x.val + 1) ≤ s.config.memSize ∧
      t = (s.advance.setRegs (copyUpTo x (fun k => s.readByte (s.dataAddress k.val)) s.v)).setI (s.indexPast x)
  | .ldRVx x => t = s.advance.setFlags (copyUpTo x s.reg s.flags)
  | .ldVxR x => t = s.advance.setRegs (copyUpTo x s.flagSlot s.v)

/-- Everything an instruction can do: take a fault that is so and change the status alone, or have its own effect. -/
theorem exec_cases {i : Instr} {s t : State} (h : exec i s = .next t) :
    (∃ f, t = s.takeFault f ∧ f.consistent s.config) ∨ Completes i s t := by
  have guarded : ∀ {n : Nat} {u : State}, guardRange (s.dataAddress 0) n s u = .next t →
      (∃ f, t = s.takeFault f ∧ f.consistent s.config) ∨
        ((n = 0 ∨ s.i.toNat + n ≤ s.config.memSize) ∧ t = u) := fun h => by
    rcases guardRange_cases h with ⟨hf, h⟩ | ⟨_, _, h⟩
    · cases h; exact .inr ⟨by simpa [State.dataAddress] using hf, rfl⟩
    · cases h; exact .inl ⟨_, rfl, Nat.le_max_right _ _⟩
  cases i with
  | ret =>
    simp only [exec, execRet] at h
    cases hs : s.stack with
    | nil => rw [hs] at h; cases h; exact .inl ⟨.stackUnderflow, rfl, trivial⟩
    | cons a l => rw [hs] at h; cases h; exact .inr ⟨a, l, hs, rfl⟩
  | call n =>
    simp only [exec, execCall] at h
    split at h
    · rename_i hl; cases h; exact .inl ⟨.stackOverflow, rfl, by simp [Fault.consistent, hl]⟩
    · rename_i hl; cases h; exact .inr ⟨hl, rfl⟩
  | ldB x => exact (guarded h).imp_right fun ⟨hf, ht⟩ => ⟨by omega, ht⟩
  | ldMemVx x => exact (guarded h).imp_right fun ⟨hf, ht⟩ => ⟨by omega, ht⟩
  | ldVxMem x => exact (guarded h).imp_right fun ⟨hf, ht⟩ => ⟨by omega, ht⟩
  | drw x y n =>
    simp only [exec, execDrw] at h
    cases hs : s.spriteForm n with
    | none =>
      simp only [hs, raise_eq] at h; cases h
      unfold State.spriteForm at hs
      obtain ⟨rfl, hl⟩ : n = 0 ∧ s.config.loresDxy0 = .fault := by grind
      exact .inl ⟨.unmodelledForm _, rfl, encodeXY_fixed _ _ _ _, hl⟩
    | some f =>
      simp only [hs] at h
      exact (guarded h).imp_right fun ⟨hf, ht⟩ => ⟨f, hs, hf, ht⟩
  | _ => cases h; exact .inr rfl

/-- Every instruction answers a next state, in every state. -/
theorem exec_answers (i : Instr) (s : State) : ∃ t, exec i s = .next t := by
  have guarded : ∀ b n (t : State), ∃ u, guardRange b n s t = .next u := fun b n t => by
    unfold guardRange; split <;> exact ⟨_, rfl⟩
  cases i with
  | ret => simp only [exec, execRet]; split <;> exact ⟨_, rfl⟩
  | call n => simp only [exec, execCall]; split <;> exact ⟨_, rfl⟩
  | drw x y n => simp only [exec, execDrw]; split; exacts [⟨_, rfl⟩, guarded _ _ _]
  | ldB x => exact guarded _ _ _
  | ldMemVx x => exact guarded _ _ _
  | ldVxMem x => exact guarded _ _ _
  | _ => exact ⟨_, rfl⟩

/-- The status after an instruction that completes. -/
def statusAfter (i : Instr) (s : State) : Status :=
  match i with
  | .ldVxK x => .awaitingInput x
  | _ => s.status

theorem Completes.status_eq {i : Instr} {s t : State} (h : Completes i s t) : t.status = statusAfter i s := by
  cases i <;> simp only [Completes, statusAfter] at h ⊢ <;> first
    | (subst h; simp; done)
    | (obtain ⟨-, rfl⟩ := h; rfl)
    | (obtain ⟨_, _, _, rfl⟩ := h; rfl)
    | (subst h; split; exacts [rfl, rfl])

/-- Everything a step in `ready` can do: take a fault of the fetch or of decoding, or run the decoded instruction. -/
theorem step_ready_cases {s : State} (hr : s.status = .ready) :
    (∃ f, step s = .next (s.takeFault f) ∧ f.consistent s.config ∧
      ¬∃ w i, s.fetch = .ok w ∧ decodeWord s.config.sysAsNop w = .ok i) ∨
    ∃ w i, s.fetch = .ok w ∧ decodeWord s.config.sysAsNop w = .ok i ∧ step s = exec i s ∧
      s.pc.toNat + 1 < s.config.memSize := by
  by_cases hp : s.pc.toNat + 1 < s.config.memSize
  · have hf := State.fetch_of_fits hp
    cases hd : decodeWord s.config.sysAsNop (wordOfBytes (s.readByte s.pc.toNat) (s.readByte (s.pc.toNat + 1))) with
    | ok i => exact .inr ⟨_, i, hf, hd, by simp only [step, hr, hf, hd], hp⟩
    | error e =>
      have he : e = .unknownInstruction (wordOfBytes (s.readByte s.pc.toNat) (s.readByte (s.pc.toNat + 1))) := by
        rcases decodeWord_cases s.config.sysAsNop
          (wordOfBytes (s.readByte s.pc.toNat) (s.readByte (s.pc.toNat + 1))) with ⟨r, _, _, hr⟩ | ⟨_, hn⟩
        · rw [hd] at hr; cases hr
        · rw [hd] at hn; split at hn <;> cases hn; rfl
      refine .inl ⟨.unknownInstruction _, by simp only [step, hr, hf, hd]; rfl, he ▸ hd, ?_⟩
      rintro ⟨w, i, hw, hi⟩
      rw [hf] at hw; cases hw; rw [hd] at hi; cases hi
  · have hf := State.fetch_of_leaves (Nat.le_of_not_lt hp)
    refine .inl ⟨.outOfBounds _, by simp only [step, hr, hf]; rfl, by simp only [Fault.consistent]; split <;> omega, ?_⟩
    rintro ⟨w, i, hw, _⟩
    rw [hf] at hw; cases hw

/-- A step outside `ready` changes nothing. -/
theorem step_not_ready {s t : State} (hr : s.status ≠ .ready) (h : step s = .next t) : t = s := by
  unfold step at h
  split at h <;> first | (cases h; done) | (cases h; rfl) | contradiction

/-- Everything a step that goes on can do. -/
theorem step_cases {s t : State} (h : step s = .next t) :
    t = s ∨ (s.status = .ready ∧ ∃ f, t = s.takeFault f ∧ f.consistent s.config) ∨
    (s.status = .ready ∧ ∃ i, Completes i s t ∧ s.pc.toNat + 1 < s.config.memSize) := by
  by_cases hr : s.status = .ready
  · rcases step_ready_cases hr with ⟨f, hs, hc, _⟩ | ⟨w, i, _, _, hs, hp⟩
    · rw [hs] at h; cases h; exact .inr (.inl ⟨hr, f, rfl, hc⟩)
    · rw [hs] at h
      rcases exec_cases h with hf | hc
      · exact .inr (.inl ⟨hr, hf⟩)
      · exact .inr (.inr ⟨hr, i, hc, hp⟩)
  · exact .inl (step_not_ready hr h)

/-- The state a host step leaves: the next state, or the state as it was. -/
theorem State.stepCommand_state (s : State) :
    (∃ t, step s = .next t ∧ s.stepCommand.1 = t) ∨ ((∀ t, step s ≠ .next t) ∧ s.stepCommand.1 = s) := by
  unfold State.stepCommand
  cases h : step s with
  | next t => exact .inl ⟨t, rfl, rfl⟩
  | fault f => exact .inr ⟨fun _ h => (by cases h), rfl⟩
  | refused r => exact .inr ⟨fun _ h => (by cases h), rfl⟩

/-- The key-down that a waiting core receives. -/
theorem State.deliverKey_of_awaiting {s : State} {t : VReg} (k : Nat) (h : s.status = .awaitingInput t) :
    s.deliverKey k = (s.setReg t (BitVec.ofNat 8 k)).setStatus .ready := by
  unfold State.deliverKey; rw [h]

/-- The key-down that a core which does not wait ignores. -/
theorem State.deliverKey_of_not_awaiting {s : State} (k : Nat) (h : ∀ t, s.status ≠ .awaitingInput t) :
    s.deliverKey k = s := by
  unfold State.deliverKey; split
  · rename_i t ht; exact absurd ht (h t)
  all_goals rfl

/-- A run of one more command. -/
theorem runCommands_cons (c : Command) (cs : List Command) (s : State) :
    (runCommands (c :: cs) s).1 = (runCommands cs (command c s).1).1 := rfl

/-- What every command keeps, every run keeps. -/
theorem runCommands_keeps {P : State → Prop} {cs : List Command}
    (h : ∀ c ∈ cs, ∀ s, P s → P (command c s).1) {s : State} (hs : P s) : P (runCommands cs s).1 := by
  induction cs generalizing s with
  | nil => exact hs
  | cons c cs ih =>
    rw [runCommands_cons]
    exact ih (fun d hd => h d (List.mem_cons_of_mem _ hd)) (h c List.mem_cons_self s hs)

end Sys2Proof.Machine
end

