-- ==== Sys2Proof/Laws/PerInstr.lean ====
section
/-! SUPPORT. The per-instruction family: each well-formed instruction encodes into its own row of the opcode table, which reads it back. -/

namespace Sys2Proof.Laws.EncodesOwnRow

/-- The instruction's word has the fixed bits of a row of the opcode table, and that row reads every operand back. -/
def Statement (i : Instr) : Prop :=
  i.wellFormed = true → ∃ r ∈ opcodeRows, encode i &&& r.mask = r.pattern ∧ r.build (encode i) = i

theorem nop : Statement .nop := fun _ =>
  ⟨⟨0xFFFF, 0x0000, fun _ => .nop⟩, by simp [opcodeRows], by decide, rfl⟩
theorem cls : Statement .cls := fun _ =>
  ⟨⟨0xFFFF, 0x00E0, fun _ => .cls⟩, by simp [opcodeRows], by decide, rfl⟩
theorem ret : Statement .ret := fun _ =>
  ⟨⟨0xFFFF, 0x00EE, fun _ => .ret⟩, by simp [opcodeRows], by decide, rfl⟩
theorem high : Statement .high := fun _ =>
  ⟨⟨0xFFFF, 0x00FF, fun _ => .high⟩, by simp [opcodeRows], by decide, rfl⟩
theorem jp (nnn : BitVec 12) : Statement (.jp nnn) := fun _ =>
  ⟨⟨0xF000, 0x1000, fun w => .jp (fieldNNN w)⟩, by simp [opcodeRows], encodeA_fixed _ _, by simp [encode]⟩
theorem call (nnn : BitVec 12) : Statement (.call nnn) := fun _ =>
  ⟨⟨0xF000, 0x2000, fun w => .call (fieldNNN w)⟩, by simp [opcodeRows], encodeA_fixed _ _, by simp [encode]⟩
theorem seImm (x : VReg) (nn : Byte) : Statement (.seImm x nn) := fun _ =>
  ⟨⟨0xF000, 0x3000, fun w => .seImm (fieldX w) (fieldNN w)⟩, by simp [opcodeRows], encodeXI_fixed _ _ _, by simp [encode]⟩
theorem sneImm (x : VReg) (nn : Byte) : Statement (.sneImm x nn) := fun _ =>
  ⟨⟨0xF000, 0x4000, fun w => .sneImm (fieldX w) (fieldNN w)⟩, by simp [opcodeRows], encodeXI_fixed _ _ _, by simp [encode]⟩
theorem seReg (x : VReg) (y : VReg) : Statement (.seReg x y) := fun _ =>
  ⟨⟨0xF00F, 0x5000, fun w => .seReg (fieldX w) (fieldY w)⟩, by simp [opcodeRows], encodeXY_fixed _ _ _ _, by simp [encode]⟩
theorem ldImm (x : VReg) (nn : Byte) : Statement (.ldImm x nn) := fun _ =>
  ⟨⟨0xF000, 0x6000, fun w => .ldImm (fieldX w) (fieldNN w)⟩, by simp [opcodeRows], encodeXI_fixed _ _ _, by simp [encode]⟩
theorem addImm (x : VReg) (nn : Byte) : Statement (.addImm x nn) := fun _ =>
  ⟨⟨0xF000, 0x7000, fun w => .addImm (fieldX w) (fieldNN w)⟩, by simp [opcodeRows], encodeXI_fixed _ _ _, by simp [encode]⟩
theorem ldReg (x : VReg) (y : VReg) : Statement (.ldReg x y) := fun _ =>
  ⟨⟨0xF00F, 0x8000, fun w => .ldReg (fieldX w) (fieldY w)⟩, by simp [opcodeRows], encodeXY_fixed _ _ _ _, by simp [encode]⟩
theorem orReg (x : VReg) (y : VReg) : Statement (.orReg x y) := fun _ =>
  ⟨⟨0xF00F, 0x8001, fun w => .orReg (fieldX w) (fieldY w)⟩, by simp [opcodeRows], encodeXY_fixed _ _ _ _, by simp [encode]⟩
theorem andReg (x : VReg) (y : VReg) : Statement (.andReg x y) := fun _ =>
  ⟨⟨0xF00F, 0x8002, fun w => .andReg (fieldX w) (fieldY w)⟩, by simp [opcodeRows], encodeXY_fixed _ _ _ _, by simp [encode]⟩
theorem xorReg (x : VReg) (y : VReg) : Statement (.xorReg x y) := fun _ =>
  ⟨⟨0xF00F, 0x8003, fun w => .xorReg (fieldX w) (fieldY w)⟩, by simp [opcodeRows], encodeXY_fixed _ _ _ _, by simp [encode]⟩
theorem addReg (x : VReg) (y : VReg) : Statement (.addReg x y) := fun _ =>
  ⟨⟨0xF00F, 0x8004, fun w => .addReg (fieldX w) (fieldY w)⟩, by simp [opcodeRows], encodeXY_fixed _ _ _ _, by simp [encode]⟩
theorem subReg (x : VReg) (y : VReg) : Statement (.subReg x y) := fun _ =>
  ⟨⟨0xF00F, 0x8005, fun w => .subReg (fieldX w) (fieldY w)⟩, by simp [opcodeRows], encodeXY_fixed _ _ _ _, by simp [encode]⟩
theorem shr (x : VReg) (y : VReg) : Statement (.shr x y) := fun _ =>
  ⟨⟨0xF00F, 0x8006, fun w => .shr (fieldX w) (fieldY w)⟩, by simp [opcodeRows], encodeXY_fixed _ _ _ _, by simp [encode]⟩
theorem subnReg (x : VReg) (y : VReg) : Statement (.subnReg x y) := fun _ =>
  ⟨⟨0xF00F, 0x8007, fun w => .subnReg (fieldX w) (fieldY w)⟩, by simp [opcodeRows], encodeXY_fixed _ _ _ _, by simp [encode]⟩
theorem shl (x : VReg) (y : VReg) : Statement (.shl x y) := fun _ =>
  ⟨⟨0xF00F, 0x800E, fun w => .shl (fieldX w) (fieldY w)⟩, by simp [opcodeRows], encodeXY_fixed _ _ _ _, by simp [encode]⟩
theorem sneReg (x : VReg) (y : VReg) : Statement (.sneReg x y) := fun _ =>
  ⟨⟨0xF00F, 0x9000, fun w => .sneReg (fieldX w) (fieldY w)⟩, by simp [opcodeRows], encodeXY_fixed _ _ _ _, by simp [encode]⟩
theorem ldI (nnn : BitVec 12) : Statement (.ldI nnn) := fun _ =>
  ⟨⟨0xF000, 0xA000, fun w => .ldI (fieldNNN w)⟩, by simp [opcodeRows], encodeA_fixed _ _, by simp [encode]⟩
theorem jpV0 (nnn : BitVec 12) : Statement (.jpV0 nnn) := fun _ =>
  ⟨⟨0xF000, 0xB000, fun w => .jpV0 (fieldNNN w)⟩, by simp [opcodeRows], encodeA_fixed _ _, by simp [encode]⟩
theorem rnd (x : VReg) (nn : Byte) : Statement (.rnd x nn) := fun _ =>
  ⟨⟨0xF000, 0xC000, fun w => .rnd (fieldX w) (fieldNN w)⟩, by simp [opcodeRows], encodeXI_fixed _ _ _, by simp [encode]⟩
theorem drw (x : VReg) (y : VReg) (n : Nat) : Statement (.drw x y n) := fun h =>
  ⟨⟨0xF000, 0xD000, fun w => .drw (fieldX w) (fieldY w) (fieldN w)⟩, by simp [opcodeRows], encodeXYN_fixed _ _ _ _, by simp [encode, Nat.mod_eq_of_lt (of_decide_eq_true h)]⟩
theorem skp (x : VReg) : Statement (.skp x) := fun _ =>
  ⟨⟨0xF0FF, 0xE09E, fun w => .skp (fieldX w)⟩, by simp [opcodeRows], encodeXS_fixed _ _ _, by simp [encode]⟩
theorem sknp (x : VReg) : Statement (.sknp x) := fun _ =>
  ⟨⟨0xF0FF, 0xE0A1, fun w => .sknp (fieldX w)⟩, by simp [opcodeRows], encodeXS_fixed _ _ _, by simp [encode]⟩
theorem ldVxDt (x : VReg) : Statement (.ldVxDt x) := fun _ =>
  ⟨⟨0xF0FF, 0xF007, fun w => .ldVxDt (fieldX w)⟩, by simp [opcodeRows], encodeXS_fixed _ _ _, by simp [encode]⟩
theorem ldVxK (x : VReg) : Statement (.ldVxK x) := fun _ =>
  ⟨⟨0xF0FF, 0xF00A, fun w => .ldVxK (fieldX w)⟩, by simp [opcodeRows], encodeXS_fixed _ _ _, by simp [encode]⟩
theorem ldDtVx (x : VReg) : Statement (.ldDtVx x) := fun _ =>
  ⟨⟨0xF0FF, 0xF015, fun w => .ldDtVx (fieldX w)⟩, by simp [opcodeRows], encodeXS_fixed _ _ _, by simp [encode]⟩
theorem ldStVx (x : VReg) : Statement (.ldStVx x) := fun _ =>
  ⟨⟨0xF0FF, 0xF018, fun w => .ldStVx (fieldX w)⟩, by simp [opcodeRows], encodeXS_fixed _ _ _, by simp [encode]⟩
theorem addI (x : VReg) : Statement (.addI x) := fun _ =>
  ⟨⟨0xF0FF, 0xF01E, fun w => .addI (fieldX w)⟩, by simp [opcodeRows], encodeXS_fixed _ _ _, by simp [encode]⟩
theorem ldF (x : VReg) : Statement (.ldF x) := fun _ =>
  ⟨⟨0xF0FF, 0xF029, fun w => .ldF (fieldX w)⟩, by simp [opcodeRows], encodeXS_fixed _ _ _, by simp [encode]⟩
theorem ldB (x : VReg) : Statement (.ldB x) := fun _ =>
  ⟨⟨0xF0FF, 0xF033, fun w => .ldB (fieldX w)⟩, by simp [opcodeRows], encodeXS_fixed _ _ _, by simp [encode]⟩
theorem ldMemVx (x : VReg) : Statement (.ldMemVx x) := fun _ =>
  ⟨⟨0xF0FF, 0xF055, fun w => .ldMemVx (fieldX w)⟩, by simp [opcodeRows], encodeXS_fixed _ _ _, by simp [encode]⟩
theorem ldVxMem (x : VReg) : Statement (.ldVxMem x) := fun _ =>
  ⟨⟨0xF0FF, 0xF065, fun w => .ldVxMem (fieldX w)⟩, by simp [opcodeRows], encodeXS_fixed _ _ _, by simp [encode]⟩
theorem ldRVx (x : VReg) : Statement (.ldRVx x) := fun _ =>
  ⟨⟨0xF0FF, 0xF075, fun w => .ldRVx (fieldX w)⟩, by simp [opcodeRows], encodeXS_fixed _ _ _, by simp [encode]⟩
theorem ldVxR (x : VReg) : Statement (.ldVxR x) := fun _ =>
  ⟨⟨0xF0FF, 0xF085, fun w => .ldVxR (fieldX w)⟩, by simp [opcodeRows], encodeXS_fixed _ _ _, by simp [encode]⟩

end Sys2Proof.Laws.EncodesOwnRow
end

