-- ==== Sys2Proof/Tests/Slice0.lean ====
section
/-! SUPPORT. The model's own tests: what WellFormed refuses, words written out from the spec's encodings, one step on small states (the vectors of 95_test_vectors.md), and a witness for the hypotheses of each obligation. -/

namespace Sys2Proof.Tests

open Sys2Proof.Machine

/-! ### Helpers -/

/-- What `f` reads from the state that one step leaves, with the word `w` placed at the next fetch. -/
def after {α : Type} (w : Nat) (s : State) (f : State → α) : Option α :=
  match step (s.withFetchWord 16 w) with
  | .next t => some (f t)
  | .fault _ | .refused _ => none

/-- Whether a result is a next state that `p` holds of. -/
def answers (r : Result) (p : State → Bool) : Bool :=
  match r with
  | .next t => p t
  | .fault _ | .refused _ => false

theorem next_of {r : Result} {p : State → Bool} (h : answers r p = true) : ∃ t, r = .next t ∧ p t = true := by
  cases r with
  | next t => exact ⟨t, rfl, h⟩
  | fault f => cases h
  | refused q => cases h

/-- The state after reset with two registers set. -/
def with2 (x : VReg) (a : Byte) (y : VReg) (b : Byte) : State := (State.reset.setReg x a).setReg y b

/-- The state after reset with `I` set. -/
def withI (a : Word) : State := State.reset.setI a

/-- A state with parameters changed. -/
def setConfig (s : State) (f : Config → Config) : State := { s with config := f s.config }

/-- The state after reset, in high resolution. -/
def high : State := State.reset.setHires true

/-- A state inside a subroutine: a return address, bytes in memory, lit pixels and a held key. -/
def busy : State :=
  { State.reset with pc := 0x400, stack := [0x202], mem := [(0x400, 0x60), (0x401, 0x2A)], fb := [0, 2047], keys := [10] }

/-- A state that waits for a key into V3. -/
def waiting : State := State.reset.setStatus (.awaitingInput 3)

/-- A state that is in a fault. -/
def faulted : State := State.reset.setStatus (.faulted .stackUnderflow)

/-! ### What WellFormed refuses -/

theorem test_wellFormed_refuses_row_count_16 : (Instr.drw 0 0 16).wellFormed = false := by decide
theorem test_wellFormed_accepts_row_count_15 : (Instr.drw 15 15 15).wellFormed = true := by decide
theorem test_config_refuses_memory_below_font : ¬{ Config.default with memSize := 0x4F }.wellFormed := by decide
theorem test_config_refuses_memory_past_64K : ¬{ Config.default with memSize := 0x10001 }.wellFormed := by decide
theorem test_config_refuses_short_font : ¬{ Config.default with font := [0xF0] }.wellFormed := by decide
theorem test_config_refuses_stack_limit_0 : ¬{ Config.default with stackLimit := some 0 }.wellFormed := by decide
theorem test_config_accepts_default : Config.default.wellFormed := by decide

/-! ### Decoding: words written out bit by bit from the formats and the table of 30_encoding.md R106, R112 -/

theorem test_decode_nop : decodeTableWord 16 0b0000_0000_0000_0000 = some .nop := by decide
theorem test_decode_cls : decodeTableWord 16 0b0000_0000_1110_0000 = some .cls := by decide
theorem test_decode_ret : decodeTableWord 16 0b0000_0000_1110_1110 = some .ret := by decide
theorem test_decode_high : decodeTableWord 16 0b0000_0000_1111_1111 = some .high := by decide
theorem test_decode_jp : decodeTableWord 16 0b0001_1010_1011_1100 = some (.jp 0xABC) := by decide
theorem test_decode_call : decodeTableWord 16 0b0010_0100_0000_0001 = some (.call 0x401) := by decide
theorem test_decode_seImm : decodeTableWord 16 0b0011_1010_0011_1110 = some (.seImm 10 0x3E) := by decide
theorem test_decode_sneImm : decodeTableWord 16 0b0100_1010_0011_1110 = some (.sneImm 10 0x3E) := by decide
theorem test_decode_seReg : decodeTableWord 16 0b0101_0001_0010_0000 = some (.seReg 1 2) := by decide
theorem test_decode_ldImm : decodeTableWord 16 0b0110_1010_0011_1110 = some (.ldImm 10 0x3E) := by decide
theorem test_decode_addImm : decodeTableWord 16 0b0111_1010_1111_1110 = some (.addImm 10 0xFE) := by decide
theorem test_decode_ldReg : decodeTableWord 16 0b1000_0001_0010_0000 = some (.ldReg 1 2) := by decide
theorem test_decode_orReg : decodeTableWord 16 0b1000_0001_0010_0001 = some (.orReg 1 2) := by decide
theorem test_decode_andReg : decodeTableWord 16 0b1000_0001_0010_0010 = some (.andReg 1 2) := by decide
theorem test_decode_xorReg : decodeTableWord 16 0b1000_0001_0010_0011 = some (.xorReg 1 2) := by decide
theorem test_decode_addReg : decodeTableWord 16 0b1000_0001_0010_0100 = some (.addReg 1 2) := by decide
theorem test_decode_subReg : decodeTableWord 16 0b1000_0001_0010_0101 = some (.subReg 1 2) := by decide
theorem test_decode_shr : decodeTableWord 16 0b1000_0001_0010_0110 = some (.shr 1 2) := by decide
theorem test_decode_subnReg : decodeTableWord 16 0b1000_0001_0010_0111 = some (.subnReg 1 2) := by decide
theorem test_decode_shl : decodeTableWord 16 0b1000_0001_0010_1110 = some (.shl 1 2) := by decide
theorem test_decode_sneReg : decodeTableWord 16 0b1001_0001_0010_0000 = some (.sneReg 1 2) := by decide
theorem test_decode_ldI : decodeTableWord 16 0b1010_0001_0010_0011 = some (.ldI 0x123) := by decide
theorem test_decode_jpV0 : decodeTableWord 16 0b1011_0011_0000_0100 = some (.jpV0 0x304) := by decide
theorem test_decode_rnd : decodeTableWord 16 0b1100_0111_0000_1111 = some (.rnd 7 0x0F) := by decide
theorem test_decode_drw : decodeTableWord 16 0b1101_0000_0001_0101 = some (.drw 0 1 5) := by decide
theorem test_decode_skp : decodeTableWord 16 0b1110_0101_1001_1110 = some (.skp 5) := by decide
theorem test_decode_sknp : decodeTableWord 16 0b1110_0101_1010_0001 = some (.sknp 5) := by decide
theorem test_decode_ldVxDt : decodeTableWord 16 0b1111_0101_0000_0111 = some (.ldVxDt 5) := by decide
theorem test_decode_ldVxK : decodeTableWord 16 0b1111_0011_0000_1010 = some (.ldVxK 3) := by decide
theorem test_decode_ldDtVx : decodeTableWord 16 0b1111_0101_0001_0101 = some (.ldDtVx 5) := by decide
theorem test_decode_ldStVx : decodeTableWord 16 0b1111_0101_0001_1000 = some (.ldStVx 5) := by decide
theorem test_decode_addI : decodeTableWord 16 0b1111_0001_0001_1110 = some (.addI 1) := by decide
theorem test_decode_ldF : decodeTableWord 16 0b1111_0001_0010_1001 = some (.ldF 1) := by decide
theorem test_decode_ldB : decodeTableWord 16 0b1111_0001_0011_0011 = some (.ldB 1) := by decide
theorem test_decode_ldMemVx : decodeTableWord 16 0b1111_0010_0101_0101 = some (.ldMemVx 2) := by decide
theorem test_decode_ldVxMem : decodeTableWord 16 0b1111_0010_0110_0101 = some (.ldVxMem 2) := by decide
theorem test_decode_ldRVx : decodeTableWord 16 0b1111_0001_0111_0101 = some (.ldRVx 1) := by decide
theorem test_decode_ldVxR : decodeTableWord 16 0b1111_0001_1000_0101 = some (.ldVxR 1) := by decide
/-- V4 to V8: words near a row that no row names. -/
theorem test_decode_rejects : ([0x5121, 0x8128, 0xE19F, 0xF130, 0x00FE, 0x00C1, 0xFFFF] : List Nat).all
    (fun w => (decodeTableWord 16 w).isNone) = true := by decide

/-- The spellings of 30_encoding.md R116. -/
theorem test_asmText : asmText (.drw 10 1 5) = "DRW VA, V1, 0x5" ∧ asmText (.ldMemVx 15) = "LD [I], VF" ∧
    asmText (.jpV0 0x30F) = "JP V0, 0x30F" := by decide

/-! ### One step: the vectors of 95_test_vectors.md -/

/-- V1. -/
theorem test_nop : after 0x0000 State.reset (·.pc) = some 0x202 := by decide
/-- V2. -/
theorem test_sys_faults : after 0x0123 State.reset (fun t => (t.status, t.pc)) =
    some (.faulted (.unknownInstruction 0x0123), 0x200) := by decide
/-- V3. -/
theorem test_sys_as_nop : after 0x0123 (setConfig State.reset ({ · with sysAsNop := true })) (fun t => (t.status, t.pc)) =
    some (.ready, 0x202) := by decide
/-- V10. -/
theorem test_fetch_over_the_end : answers (step (State.reset.setPc 0xFFF))
    (fun t => decide (t.status = .faulted (.outOfBounds 0x1000) ∧ t.pc = 0xFFF)) = true := by decide
/-- V20. -/
theorem test_jp : after 0x1ABC State.reset (·.pc) = some 0xABC := by decide
/-- V22. -/
theorem test_call : after 0x2400 State.reset (fun t => (t.stack, t.pc)) = some ([0x202], 0x400) := by decide
/-- V26. -/
theorem test_call_overflow :
    after 0x2400 ((setConfig State.reset ({ · with stackLimit := some 1 })).setStack [0x300])
      (fun t => (t.status, t.stack, t.pc)) = some (.faulted .stackOverflow, [0x300], 0x200) := by decide
/-- V24. -/
theorem test_ret : after 0x00EE (State.reset.setStack [0x20A, 0x202]) (fun t => (t.stack, t.pc)) =
    some ([0x202], 0x20A) := by decide
/-- V25. -/
theorem test_ret_underflow : after 0x00EE State.reset (fun t => (t.status, t.pc)) =
    some (.faulted .stackUnderflow, 0x200) := by decide
/-- V27. -/
theorem test_seImm : after 0x3A3E (State.reset.setReg 10 0x3E) (·.pc) = some 0x204 := by decide
/-- V28. -/
theorem test_seImm_not : after 0x3A3E (State.reset.setReg 10 0x3F) (·.pc) = some 0x202 := by decide
/-- V29. -/
theorem test_sneImm_not : after 0x4A3E (State.reset.setReg 10 0x3E) (·.pc) = some 0x202 := by decide
/-- V30. -/
theorem test_sneImm : after 0x4A3E State.reset (·.pc) = some 0x204 := by decide
/-- V31. -/
theorem test_seReg : after 0x5120 (with2 1 7 2 7) (·.pc) = some 0x204 := by decide
/-- V32. -/
theorem test_seReg_not : after 0x5120 (with2 1 1 2 2) (·.pc) = some 0x202 := by decide
/-- V33. -/
theorem test_sneReg : after 0x9120 (with2 1 1 2 2) (·.pc) = some 0x204 := by decide
/-- V34. -/
theorem test_sneReg_not : after 0x9120 (with2 1 7 2 7) (·.pc) = some 0x202 := by decide
/-- V37: the target is not masked. -/
theorem test_jpV0 : after 0xBFFF (State.reset.setReg 0 0xFF) (·.pc) = some 0x10FE := by decide
/-- V51. -/
theorem test_ldImm : after 0x6F05 State.reset (fun t => (t.reg vF, t.pc)) = some (0x05, 0x202) := by decide
/-- V52. -/
theorem test_addImm : after 0x7AFF (with2 10 0x02 15 0x77) (fun t => (t.reg 10, t.reg vF)) = some (0x01, 0x77) := by
  decide
/-- V54. -/
theorem test_ldReg : after 0x8120 (State.reset.setReg 2 0x55) (fun t => (t.reg 1, t.reg 2)) = some (0x55, 0x55) := by
  decide
/-- V55. -/
theorem test_orReg : after 0x8121 ((with2 1 0xF0 2 0x0F).setReg 15 0x77) (fun t => (t.reg 1, t.reg vF)) =
    some (0xFF, 0x77) := by decide
/-- V56. -/
theorem test_orReg_clears :
    after 0x8121 (setConfig ((with2 1 0xF0 2 0x0F).setReg 15 0x77) ({ · with logicClearsVf := true }))
      (fun t => (t.reg 1, t.reg vF)) = some (0xFF, 0x00) := by decide
/-- V57. -/
theorem test_andReg : after 0x8122 (with2 1 0xF0 2 0x3C) (·.reg 1) = some 0x30 := by decide
/-- V58. -/
theorem test_xorReg : after 0x8123 (with2 1 0xF0 2 0xFF) (·.reg 1) = some 0x0F := by decide
/-- V60. -/
theorem test_addReg : after 0x8124 (with2 1 0xFF 2 0x01) (fun t => (t.reg 1, t.reg vF)) = some (0x00, 1) := by decide
/-- V64, V65. -/
theorem test_addReg_vF :
    after 0x8F14 (with2 15 0xFE 1 0x01) (·.reg vF) = some 0 ∧
    after 0x8F14 (setConfig (with2 15 0xFE 1 0x01) ({ · with vfOrder := .resultLast })) (·.reg vF) = some 0xFF := by
  decide
/-- V67. -/
theorem test_subReg : after 0x8125 (with2 1 0x03 2 0x05) (fun t => (t.reg 1, t.reg vF)) = some (0xFE, 0) := by decide
/-- S3: equal operands do not borrow. -/
theorem test_subReg_equal : after 0x8125 (with2 1 0x07 2 0x07) (fun t => (t.reg 1, t.reg vF)) = some (0x00, 1) := by
  decide
/-- V68. -/
theorem test_subnReg : after 0x8127 (with2 1 0x03 2 0x05) (fun t => (t.reg 1, t.reg vF)) = some (0x02, 1) := by decide
/-- V69. -/
theorem test_subnReg_borrow : after 0x8127 (with2 1 0x05 2 0x03) (fun t => (t.reg 1, t.reg vF)) = some (0xFE, 0) := by
  decide
/-- V72. -/
theorem test_shr : after 0x8126 (with2 1 0x04 2 0xFF) (fun t => (t.reg 1, t.reg vF)) = some (0x02, 0) := by decide
/-- V73. -/
theorem test_shr_vy : after 0x8126 (setConfig (with2 1 0x04 2 0xFF) ({ · with shiftSource := .vy }))
    (fun t => (t.reg 1, t.reg vF)) = some (0x7F, 1) := by decide
/-- V74. -/
theorem test_shl : after 0x811E (State.reset.setReg 1 0x81) (fun t => (t.reg 1, t.reg vF)) = some (0x02, 1) := by decide
/-- V75. -/
theorem test_shl_out_0 : after 0x811E (State.reset.setReg 1 0x40) (fun t => (t.reg 1, t.reg vF)) = some (0x80, 0) := by
  decide
/-- V77: the drawn byte is an argument, since the free byte has no value. -/
theorem test_rnd : answers (rndWith 0xAB 0 0x0F State.reset)
    (fun t => decide (t.reg 0 = 0x0B ∧ t.reg vF = 0 ∧ t.pc = 0x202)) = true := by decide
/-- V90. -/
theorem test_ldI : after 0xA123 State.reset (·.i) = some 0x123 := by decide
/-- V91. -/
theorem test_addI : after 0xF11E ((withI 0x0FFF).setReg 1 1) (·.i) = some 0x1000 := by decide
/-- V92. -/
theorem test_addI_wraps : after 0xF11E ((withI 0xFFFF).setReg 1 2) (·.i) = some 0x0001 := by decide
/-- V94. -/
theorem test_ldF : after 0xF129 (State.reset.setReg 1 0x1A) (·.i) = some 0x0032 := by decide
/-- V95. -/
theorem test_ldF_unmasked :
    after 0xF129 (setConfig (State.reset.setReg 1 0x1A) ({ · with fontDigitMask := false })) (·.i) = some 0x0082 := by
  decide
/-- S8. -/
theorem test_ldB : after 0xF033 ((withI 0x300).setReg 0 234)
    (fun t => ([0x300, 0x301, 0x302].map t.readByte, t.i)) = some ([2, 3, 4], 0x300) := by decide
/-- V98. -/
theorem test_ldB_faults : after 0xF033 ((withI 0xFFE).setReg 0 7)
    (fun t => (t.status, t.readByte 0xFFE, t.pc)) = some (.faulted (.outOfBounds 0x1000), 0, 0x200) := by decide
/-- V99. -/
theorem test_ldMemVx : after 0xF255 (((withI 0x300).setReg 0 1).setReg 2 3)
    (fun t => ([0x300, 0x301, 0x302, 0x303].map t.readByte, t.i)) = some ([1, 0, 3, 0], 0x303) := by decide
/-- V102. -/
theorem test_ldMemVx_faults : after 0xFF55 ((withI 0xFF1).setReg 0 9)
    (fun t => (t.status, t.readByte 0xFF1, t.i)) = some (.faulted (.outOfBounds 0x1000), 0, 0xFF1) := by decide
/-- V100. -/
theorem test_ldVxMem : after 0xF065 ((withI 0x300).writeByte 0x300 0x42) (fun t => (t.reg 0, t.reg 1, t.i)) =
    some (0x42, 0, 0x301) := by decide
/-- V104. -/
theorem test_ldVxMem_faults : after 0xF065 (withI 0x1000) (fun t => (t.status, t.reg 0)) =
    some (.faulted (.outOfBounds 0x1000), 0) := by decide
/-- V106. -/
theorem test_ldRVx : after 0xF175 ((with2 0 0xAA 1 0xBB).setReg 2 0xCC)
    (fun t => (t.flagSlot 0, t.flagSlot 1, t.flagSlot 2)) = some (0xAA, 0xBB, 0) := by decide
/-- V107, with the slots 0xF0 to 0xFF and X = 1, so that V2 stays. -/
theorem test_ldVxR : after 0xF185 (State.reset.setFlags (Vector.ofFn (fun k : Fin 16 => BitVec.ofNat 8 (0xF0 + k.val))))
    (fun t => (t.reg 0, t.reg 1, t.reg 2)) = some (0xF0, 0xF1, 0) := by decide
/-- V120. -/
theorem test_cls : after 0x00E0 (State.reset.setFb [5, 9]) (·.fb) = some [] := by decide
/-- V121. -/
theorem test_high : after 0x00FF (State.reset.setFb [5, 9]) (fun t => (t.hires, t.width, t.height, t.fb)) =
    some (true, 128, 64, []) := by decide
/-- V122, V123. -/
theorem test_high_again : after 0x00FF (high.setFb [645]) (·.fb) = some [645] ∧
    after 0x00FF (setConfig (high.setFb [645]) ({ · with hiresReentryClears := true })) (·.fb) = some [] := by decide
/-- V126: the lit cells (0..6, 0) and (63, 0). -/
theorem test_drw_wraps : after 0xD011 (((withI 0x300).writeByte 0x300 0xFF).setReg 0 0x3F)
    (fun t => (t.fb, t.reg vF)) = some ([0, 1, 2, 3, 4, 5, 6, 63], 0) := by decide
/-- V133: the lit cells (0, 0) and (15, 0) of the 16 by 16 form; the first pixel was lit, so it goes out and VF is 1. -/
theorem test_drw_16 : after 0xD010 ((((high.setI 0x300).writeByte 0x300 0x80).writeByte 0x301 0x01).setFb [0])
    (fun t => (t.fb, t.reg vF)) = some ([15], 1) := by decide
/-- V131. -/
theorem test_drw_lores_0 : after 0xD010 State.reset (fun t => (t.status, t.pc)) =
    some (.faulted (.unmodelledForm 0xD010), 0x200) := by decide
/-- V150. -/
theorem test_ldDtVx : after 0xF515 (State.reset.setReg 5 0x3C) (fun t => (t.dt, t.st)) = some (0x3C, 0) := by decide
/-- V151. -/
theorem test_ldStVx : after 0xF518 (State.reset.setReg 5 0x3C) (fun t => (t.dt, t.st)) = some (0, 0x3C) := by decide
/-- V152. -/
theorem test_ldVxDt : after 0xF507 (State.reset.setDt 0x09) (·.reg 5) = some 0x09 := by decide
/-- V156, V157. -/
theorem test_skp : after 0xE59E ((State.reset.setKeys [10]).setReg 5 0x0A) (·.pc) = some 0x204 ∧
    after 0xE59E (State.reset.setReg 5 0x0A) (·.pc) = some 0x202 := by decide
/-- V160, V162. -/
theorem test_skp_mask : after 0xE59E ((State.reset.setKeys [10]).setReg 5 0x1A) (·.pc) = some 0x202 ∧
    after 0xE59E (setConfig ((State.reset.setKeys [10]).setReg 5 0x1A) ({ · with keyMask := true })) (·.pc) =
      some 0x204 := by decide
/-- V158, V159. -/
theorem test_sknp : after 0xE5A1 ((State.reset.setKeys [10]).setReg 5 0x0A) (·.pc) = some 0x202 ∧
    after 0xE5A1 (State.reset.setReg 5 0x0A) (·.pc) = some 0x204 := by decide
/-- V163. -/
theorem test_ldVxK : after 0xF30A (State.reset.setKeys [3]) (fun t => (t.status, t.pc, t.reg 3)) =
    some (.awaitingInput 3, 0x202, 0) := by decide

/-! ### Host commands -/

/-- V165. -/
theorem test_keyDown_ends_wait : (waiting.setKeyDown 7).1.status = .ready ∧ (waiting.setKeyDown 7).1.reg 3 = 7 ∧
    (waiting.setKeyDown 7).1.keys = [7] := by decide
/-- V164. -/
theorem test_keyUp_does_not : ((waiting.setKeys [3]).setKeyUp 3).1.status = .awaitingInput 3 ∧
    ((waiting.setKeys [3]).setKeyUp 3).1.keys = [] := by decide
/-- V155. -/
theorem test_timers_tick_when_faulted : (faulted.setDt 5).updateTimers.dt = 4 ∧ faulted.updateTimers.st = 0 := by decide
/-- S1. -/
theorem test_load : (busy.load [0x12, 0x34, 0xAB] 0x300).2 = .ok ∧
    [0x300, 0x301, 0x302, 0x400].map (busy.load [0x12, 0x34, 0xAB] 0x300).1.readByte = [0x12, 0x34, 0xAB, 0] ∧
    (busy.load [0x12, 0x34, 0xAB] 0x300).1.pc = 0x300 := by decide
/-- V14. -/
theorem test_load_too_large : faulted.load [0x00] 0x1000 = (faulted, .romTooLarge) := by decide

/-! ### Witnesses: for each obligation with hypotheses, a state and operands that meet them together -/

theorem busy_memory : Memory.wf busy.config busy.mem := by decide

theorem busy_config : busy.config.wellFormed := by decide

theorem busy_fb : busy.fbWf := ⟨by decide, show ∀ k ∈ [0, 2047], k < 64 * 32 by decide⟩

theorem busy_keys : busy.keysWf := ⟨by decide, show ∀ k ∈ [10], k < 16 by decide⟩

theorem busy_stack : busy.stackWf := by
  have h1 : busy.config.stackLimit = none := rfl
  have h2 : busy.stack = [0x202] := rfl
  have h3 : busy.config.memSize = 4096 := rfl
  simp only [State.stackWf, h1, h2, h3]
  simp

theorem busy_status : busy.statusWf := fun _ h => nomatch h

theorem busy_inv : busy.Inv := ⟨busy_config, busy_memory, busy_fb, busy_keys, busy_stack, busy_status⟩

theorem witness_DecodeOfEncodeIsTheInstruction :
    Instr.wellFormed (.drw 15 15 15) = true ∧ Instr.wellFormed (.jp 0xFFF) = true := by decide

theorem witness_EncodeOfDecodeIsTheWord : decodeWord false 0xDFFF = .ok (.drw 15 15 15) := rfl

theorem witness_DecodingIsByTheUniqueRow :
    (∃ r ∈ opcodeRows, (0xF065 : Word) &&& r.mask = r.pattern) ∧
    ∀ r ∈ opcodeRows, (0xF066 : Word) &&& r.mask ≠ r.pattern :=
  ⟨⟨⟨0xF0FF, 0xF065, fun w => .ldVxMem (fieldX w)⟩, by simp [opcodeRows], by decide⟩, by simp [opcodeRows]⟩

/-- The last window that is inside memory. -/
theorem witness_StepRunsTheDecodedInstruction :
    let s := (State.reset.setPc 0xFFE).withFetchWord 16 0x6A3E
    s.status = .ready ∧ s.pc.toNat + 1 < s.config.memSize ∧ s.pc = 0xFFE ∧
    decodeBytes s.config.sysAsNop [s.readByte s.pc.toNat, s.readByte (s.pc.toNat + 1)] = .ok (.ldImm 10 0x3E) :=
  ⟨rfl, by decide, by decide, rfl⟩

theorem witness_FetchOutsideMemoryFaults :
    (State.reset.setPc 0xFFF).status = .ready ∧
    (State.reset.setPc 0xFFF).config.memSize ≤ (State.reset.setPc 0xFFF).pc.toNat + 1 ∧
    (State.reset.setPc 0x1000).config.memSize ≤ (State.reset.setPc 0x1000).pc.toNat := by decide

theorem witness_UnknownWordFaults :
    let s := State.reset.withFetchWord 16 0xFFFF
    s.status = .ready ∧ s.pc.toNat + 1 < s.config.memSize ∧
    decodeWord s.config.sysAsNop (s.readByte s.pc.toNat ++ s.readByte (s.pc.toNat + 1)) =
      .error (.unknownInstruction (s.readByte s.pc.toNat ++ s.readByte (s.pc.toNat + 1))) :=
  ⟨rfl, by decide, rfl⟩

theorem witness_FaultingStepChangesOnlyStatus :
    State.reset.status = .ready ∧ ∃ t, step (State.reset.withFetchWord 16 0x00EE) = .next t ∧
      t.status = .faulted .stackUnderflow := by
  refine ⟨rfl, ?_⟩
  simpa using next_of (p := fun t => decide (t.status = .faulted .stackUnderflow)) (by decide)

theorem witness_ReadyStepEndsInOneOfThreeWays : busy.status = .ready := rfl

theorem witness_AwaitingStepIsNoOp : waiting.status = .awaitingInput 3 := rfl

theorem witness_StepStopsInFaultedAndUnloaded :
    faulted.status = .faulted .stackUnderflow ∧ (State.reset.setStatus .unloaded).status = .unloaded := ⟨rfl, rfl⟩

theorem witness_CallPushesOrOverflows :
    State.reset.config.stackLimit ≠ some State.reset.stack.length ∧
    (setConfig busy ({ · with stackLimit := some 1 })).config.stackLimit = some busy.stack.length ∧
    (setConfig busy ({ · with stackLimit := some 2 })).config.stackLimit ≠ some busy.stack.length := by decide

theorem witness_ReturnPopsOrUnderflows : busy.stack = [0x202] ∧ State.reset.stack = [] := by decide

theorem witness_ReturnUndoesCall :
    State.reset.config.stackLimit ≠ some State.reset.stack.length ∧
    ∃ t, exec (.call 0x400) State.reset = .next t ∧ (busy.setStack t.stack).stack = t.stack :=
  ⟨by decide, _, rfl, rfl⟩

theorem witness_OnlyControlTransfersMovePc :
    State.reset.status = .ready ∧
    (∃ t, exec (.ldImm 1 2) State.reset = .next t ∧ t.status = .ready) ∧
    ∃ t, exec (.skp 1) State.reset = .next t ∧ t.status = .ready :=
  ⟨rfl, ⟨_, rfl, rfl⟩, _, rfl, rfl⟩

/-- Each instruction, with the destination VF and another, under both settings. -/
theorem witness_LogicOperations :
    Instr.orReg 15 1 = .orReg 15 1 ∧ Instr.andReg 1 2 = .andReg 1 2 ∧ Instr.xorReg 1 2 = .xorReg 1 2 ∧
    (1 : VReg) ≠ vF ∧ (15 : VReg) = vF ∧
    (setConfig busy ({ · with logicClearsVf := true })).config.vfOrder = .flagLast := by decide

theorem witness_AddWritesCarry :
    (1 : VReg) ≠ vF ∧ busy.config.vfOrder = .flagLast ∧
    (setConfig busy ({ · with vfOrder := .resultLast })).config.vfOrder = .resultLast := by decide

theorem witness_SubtractWritesNotBorrow :
    (∃ i a b, i = Instr.subReg 1 2 ∧ a = busy.reg 1 ∧ b = busy.reg 2) ∧
    (∃ i a b, i = Instr.subnReg 1 2 ∧ a = busy.reg 2 ∧ b = busy.reg 1) ∧
    (1 : VReg) ≠ vF ∧ busy.config.vfOrder = .flagLast :=
  ⟨⟨_, _, _, rfl, rfl, rfl⟩, ⟨_, _, _, rfl, rfl, rfl⟩, by decide, rfl⟩

theorem witness_ShiftsWriteTheBitShiftedOut :
    let s := with2 1 0x81 2 0x40
    (0x81 : Byte) = (if s.config.shiftSource = .vx then s.reg 1 else s.reg 2) ∧
    (∃ i, i = Instr.shr 1 2 ∧ (0x40 : Nat) = (0x81 : Byte).toNat / 2 ∧ (1 : Nat) = (0x81 : Byte).toNat % 2) ∧
    ∃ i, i = Instr.shl 1 2 ∧ (2 : Nat) = 2 * (0x81 : Byte).toNat % 256 ∧ (1 : Nat) = (0x81 : Byte).toNat / 128 :=
  ⟨by decide, ⟨_, rfl, by decide, by decide⟩, _, rfl, by decide, by decide⟩

theorem witness_WritersOfVF :
    ∃ t, exec (.addReg 1 2) (with2 1 0xFF 2 1) = .next t ∧ t.reg vF ≠ (with2 1 0xFF 2 1).reg vF := by
  simpa using next_of (r := exec (.addReg 1 2) (with2 1 0xFF 2 1))
    (p := fun t => decide (t.reg vF ≠ (with2 1 0xFF 2 1).reg vF)) (by decide)

/-- The last place where three bytes are inside memory. -/
theorem witness_BcdStoresThreeDigits : (withI 0xFFD).i.toNat + 3 = (withI 0xFFD).config.memSize := by decide

/-- The last place where sixteen bytes are inside memory, and the first where they are not. -/
theorem witness_BulkStore :
    (withI 0xFF0).i.toNat + (15 : VReg).val < (withI 0xFF0).config.memSize ∧
    (withI 0xFF1).config.memSize ≤ (withI 0xFF1).i.toNat + (15 : VReg).val := by decide

theorem witness_BulkLoad :
    (withI 0xFFF).i.toNat + (0 : VReg).val < (withI 0xFFF).config.memSize ∧
    (withI 0x1000).config.memSize ≤ (withI 0x1000).i.toNat + (0 : VReg).val := by decide

theorem witness_DataOutsideMemoryFaults :
    (withI 0xFFE).config.memSize < (withI 0xFFE).i.toNat + 3 ∧
    (withI 0xFF2).config.memSize < (withI 0xFF2).i.toNat + 15 ∧
    (high.hires = true ∧ (high.setI 0xFE1).config.memSize < (high.setI 0xFE1).i.toNat + 32) ∧
    (setConfig (withI 0xFE1) ({ · with loresDxy0 := .sprite16 })).config.loresDxy0 = .sprite16 := by decide

theorem witness_EnterHighResolution :
    State.reset.hires = false ∧ high.hires = true ∧ high.config.hiresReentryClears = false ∧
    (setConfig high ({ · with hiresReentryClears := true })).config.hiresReentryClears = true := by decide

/-- The three forms, each at the last address where its bytes are inside memory. -/
theorem witness_DrawFlipsPixelsUnderTheSprite :
    (Claims.formIs (withI 0xFF1) 15 8 15 1 ∧ (withI 0xFF1).i.toNat + 15 * 1 = (withI 0xFF1).config.memSize) ∧
    (Claims.formIs (high.setI 0xFE0) 0 16 16 2 ∧ (high.setI 0xFE0).i.toNat + 16 * 2 = high.config.memSize) ∧
    Claims.formIs (setConfig State.reset ({ · with loresDxy0 := .zeroRows })) 0 8 0 1 :=
  ⟨⟨.inl (by decide), by decide⟩, ⟨.inr (.inl (by decide)), by decide⟩, .inr (.inr (by decide))⟩

theorem witness_DrawingTwiceRestoresTheFramebuffer :
    (withI 0).fbWf ∧ Claims.formIs (withI 0) 5 8 5 1 ∧ (withI 0).i.toNat + 5 * 1 ≤ (withI 0).config.memSize ∧
    ∃ t, exec (.drw 0 1 5) (withI 0) = .next t ∧ t.reg 0 = (withI 0).reg 0 ∧ t.reg 1 = (withI 0).reg 1 := by
  refine ⟨⟨by decide, fun _ h => nomatch h⟩, .inl (by decide), by decide, ?_⟩
  simpa using next_of (r := exec (.drw 0 1 5) (withI 0))
    (p := fun t => decide (t.reg 0 = (withI 0).reg 0 ∧ t.reg 1 = (withI 0).reg 1)) (by decide)

theorem witness_LowResolutionDxy0 :
    State.reset.hires = false ∧ State.reset.config.loresDxy0 = .fault ∧
    (setConfig State.reset ({ · with loresDxy0 := .zeroRows })).config.loresDxy0 = .zeroRows := by decide

theorem witness_KeySkips :
    let s := busy.setReg 5 0x1A
    26 = (if s.config.keyMask then (s.reg 5).toNat % 16 else (s.reg 5).toNat) ∧
    let u := setConfig s ({ · with keyMask := true })
    10 = (if u.config.keyMask then (u.reg 5).toNat % 16 else (u.reg 5).toNat) := by decide

theorem witness_BlockingKeyRead : (15 : Nat) < 16 := by decide

theorem witness_TimersCountDownToZero :
    ∃ t, t = (runCommands (List.replicate 3 .updateTimers) (State.reset.setDt 2)).1 ∧ t.dt = 0 := ⟨_, rfl, by decide⟩

theorem witness_KeyEvents :
    (15 : Nat) < 16 ∧ (∀ x, busy.status ≠ .awaitingInput x) ∧ (16 : Nat) ≤ 16 :=
  ⟨by decide, fun x h => by simp [busy, State.reset] at h, by decide⟩

/-- The least load that does not fit, with bytes and without. -/
theorem witness_OversizeLoadChangesNothing :
    busy.config.memSize < 0x1000 + ([0] : List Byte).length ∧ busy.config.memSize < 0x1001 + ([] : List Byte).length := by
  decide

/-- A load that ends at the last byte of memory. -/
theorem witness_LoadResetsAndCopies :
    0xFFE + ([0x12, 0x34] : List Byte).length = busy.config.memSize ∧ 0xFFE < 65536 ∧
    1 < ([0x12, 0x34] : List Byte).length ∧ (0xFFD : Nat) < 0xFFE := by decide

theorem witness_LoadIsIdempotent :
    busy.config = waiting.config ∧ busy.drawCount = waiting.drawCount ∧
    0x200 + ([0x12, 0x34] : List Byte).length ≤ waiting.config.memSize := by decide

theorem witness_ResetIsAnEmptyLoad : busy.config = Config.default ∧ busy.drawCount = 0 := by decide

theorem witness_StepKeepsTheStateRecord : busy.Inv ∧ ∃ t, step busy = .next t ∧ t.reg 0 = 0x2A := by
  refine ⟨busy_inv, ?_⟩
  simpa using next_of (r := step busy) (p := fun t => decide (t.reg 0 = 0x2A)) (by decide)

theorem witness_EveryRunKeepsTheStateRecord : busy.Inv := busy_inv

theorem witness_StatusTransitions :
    0x200 + ([] : List Byte).length ≤ busy.config.memSize ∧ faulted.status ≠ .ready ∧ busy.status = .ready ∧
    waiting.status = .awaitingInput 3 ∧ ∀ x, busy.status ≠ .awaitingInput x :=
  ⟨by decide, by decide, rfl, rfl, fun x h => by simp [busy, State.reset] at h⟩

theorem witness_FaultIsTerminalUntilLoad :
    faulted.status = .faulted .stackUnderflow ∧
    ∀ bytes offset, .load bytes offset ∈ [Command.step, .setKeyDown 3, .updateTimers, .load [] 0x1001] →
      faulted.config.memSize < offset + bytes.length := by
  refine ⟨rfl, fun bytes offset h => ?_⟩
  simp only [List.mem_cons, Command.load.injEq, reduceCtorEq, false_or, List.not_mem_nil, or_false] at h
  obtain ⟨rfl, rfl⟩ := h
  decide

theorem witness_WaitEndsOnlyByKeyDownOrLoad :
    waiting.status = .awaitingInput 3 ∧
    (∀ k, .setKeyDown k ∈ [Command.step, .setKeyDown 16, .setKeyUp 3, .updateTimers, .load [] 0x1001] → 16 ≤ k) ∧
    ∀ bytes offset, .load bytes offset ∈ [Command.step, .setKeyDown 16, .setKeyUp 3, .updateTimers, .load [] 0x1001] →
      waiting.config.memSize < offset + bytes.length := by
  refine ⟨rfl, fun k h => ?_, fun bytes offset h => ?_⟩
  · simp at h; omega
  · simp only [List.mem_cons, Command.load.injEq, reduceCtorEq, false_or, List.not_mem_nil, or_false] at h
    obtain ⟨rfl, rfl⟩ := h
    decide

theorem witness_OnlyTwoInstructionsStore :
    (∃ t, exec (.ldB 0) ((withI 0x300).setReg 0 234) = .next t ∧ t.readByte 0x302 ≠ 0) ∧
    ∃ t, exec (.ldMemVx 0) ((withI 0x300).setReg 0 234) = .next t ∧ t.readByte 0x300 ≠ 0 := by
  refine ⟨?_, ?_⟩
  · simpa using next_of (r := exec (.ldB 0) ((withI 0x300).setReg 0 234)) (p := fun t => decide (t.readByte 0x302 ≠ 0))
      (by decide)
  · simpa using next_of (r := exec (.ldMemVx 0) ((withI 0x300).setReg 0 234))
      (p := fun t => decide (t.readByte 0x300 ≠ 0)) (by decide)

/-- One writer of each state field. -/
theorem witness_OwnersOfEachStateField :
    (∃ t, exec (.ldVxK 3) busy = .next t ∧ t.status ≠ busy.status) ∧
    (∃ t, exec .ret State.reset = .next t ∧ t.status ≠ State.reset.status) ∧
    (∃ t, exec (.ldI 5) busy = .next t ∧ t.i ≠ busy.i) ∧
    (∃ t, exec .ret busy = .next t ∧ t.stack ≠ busy.stack) ∧
    (∃ t, exec (.ldDtVx 1) (busy.setReg 1 5) = .next t ∧ t.dt ≠ busy.dt) ∧
    (∃ t, exec (.ldStVx 1) (busy.setReg 1 5) = .next t ∧ t.st ≠ busy.st) ∧
    (∃ t, exec (.ldRVx 1) (busy.setReg 1 5) = .next t ∧ t.flagSlot 1 ≠ busy.flagSlot 1) ∧
    (∃ t, exec .high busy = .next t ∧ t.hires ≠ busy.hires) ∧
    (∃ t, exec .cls busy = .next t ∧ t.fb ≠ busy.fb) ∧
    ∃ t, exec (.rnd 1 2) busy = .next t ∧ t.drawCount ≠ busy.drawCount :=
  ⟨⟨_, rfl, by decide⟩, ⟨_, rfl, by decide⟩, ⟨_, rfl, by decide⟩, ⟨_, rfl, by decide⟩, ⟨_, rfl, by decide⟩,
    ⟨_, rfl, by decide⟩, ⟨_, rfl, by decide⟩, ⟨_, rfl, by decide⟩, ⟨_, rfl, by decide⟩, _, rfl, Nat.succ_ne_self _⟩

theorem witness_HighResolutionStaysUntilLoad :
    high.hires = true ∧ ∀ bytes offset, .load bytes offset ∈ [Command.step, .load [] 0x1001] →
      high.config.memSize < offset + bytes.length := by
  refine ⟨rfl, fun bytes offset h => ?_⟩
  simp only [List.mem_cons, Command.load.injEq, reduceCtorEq, false_or, List.not_mem_nil, or_false] at h
  obtain ⟨rfl, rfl⟩ := h
  decide

/-- `F155` with `I` at the next instruction. -/
theorem witness_StoreIsSeenByTheNextFetch :
    (withI 0x202).config.wellFormed ∧ (withI 0x202).i.toNat + (1 : VReg).val < (withI 0x202).config.memSize ∧
    (1 : VReg).val = (0 : VReg).val + 1 ∧ (1 : VReg) ≤ 1 ∧
    ∃ t, exec (.ldMemVx 1) (withI 0x202) = .next t ∧ t.pc.toNat = (withI 0x202).dataAddress (0 : VReg).val := by
  refine ⟨by decide, by decide, by decide, by decide, ?_⟩
  simpa using next_of (r := exec (.ldMemVx 1) (withI 0x202))
    (p := fun t => decide (t.pc.toNat = (withI 0x202).dataAddress (0 : VReg).val)) (by decide)

theorem witness_SelfJumpStepsInPlace :
    (State.reset.withFetchWord 16 0x1200).status = .ready ∧
    (State.reset.withFetchWord 16 0x1200).endOfRun = true := by decide

theorem witness_MemoryIsItsReads :
    busy.config = State.reset.config ∧ Memory.wf busy.config busy.mem ∧ busy.mem ≠ [] ∧
    ∀ a, busy.readByte a = busy.readByte a := ⟨rfl, busy_memory, by decide, fun _ => rfl⟩

end Sys2Proof.Tests
end

section
/-! The invariant of the state record in a state that a load has just cleared, and in the state after reset. -/

namespace Sys2Proof.Machine

/-- 00_scope.md R11, R12: the defaults are a legal setting. -/
theorem Config.default_wellFormed : Config.default.wellFormed := by decide

/-- What 10_state.md R56 clears meets the invariant whatever the memory holds: only the parameters and memory are left to
check. -/
theorem State.inv_of_cleared {s : State} (hconfig : s.config.wellFormed) (hmem : Memory.wf s.config s.mem)
    (hstatus : s.status = .ready) (hstack : s.stack = []) (hfb : s.fb = []) (hkeys : s.keys = []) : s.Inv where
  config := hconfig
  mem := hmem
  fb := by
    rw [State.fbWf, hfb]
    exact NatSet.wf_nil _
  keys := by
    rw [State.keysWf, hkeys]
    exact NatSet.wf_nil _
  stack := by simp [State.stackWf, hstack]
  status := by simp [State.statusWf, hstatus]

/-- Settles O48: reset is a cleared state with the default parameters and nothing listed in memory. -/
theorem resetMeetsTheStateRecord : Obligations.ResetMeetsTheStateRecord :=
  State.inv_of_cleared Config.default_wellFormed (Memory.wf_nil _) rfl rfl rfl rfl

end Sys2Proof.Machine
end

section
/-! Which instructions change each field of the state, for an instruction that completes: the one case split that the
frame statements and the invariant of the state record cite. -/

namespace Sys2Proof.Machine

/-- Each field but `v` and `pc` is as it was, or the instruction is one of the field's owners (10_state.md R31, R39 to R49;
20_memory.md R73). -/
structure FieldsOwned (ins : Instr) (s t : State) : Prop where
  status : t.status = s.status ∨ ∃ x, ins = .ldVxK x ∧ t.status = .awaitingInput x
  mem : t.mem = s.mem ∨ ∃ x, ins = .ldB x ∨ ins = .ldMemVx x
  i : t.i = s.i ∨ (∃ a, ins = .ldI a) ∨ ∃ x, ins = .addI x ∨ ins = .ldF x ∨ ins = .ldMemVx x ∨ ins = .ldVxMem x
  stack : t.stack = s.stack ∨ (∃ a, ins = .call a) ∨ ins = .ret
  dt : t.dt = s.dt ∨ ∃ x, ins = .ldDtVx x
  st : t.st = s.st ∨ ∃ x, ins = .ldStVx x
  flags : t.flags = s.flags ∨ ∃ x, ins = .ldRVx x
  hires : t.hires = s.hires ∨ ins = .high ∧ t.hires = true
  fb : t.fb = s.fb ∨ ins = .cls ∨ ins = .high ∨ ∃ x y n, ins = .drw x y n
  drawCount : t.drawCount = s.drawCount ∨ ∃ x nn, ins = .rnd x nn
  keys : t.keys = s.keys
  config : t.config = s.config

/-- An instruction that completes changes only the fields that it owns. -/
theorem Completes.fieldsOwned {i : Instr} {s t : State} (h : Completes i s t) : FieldsOwned i s t := by
  cases i with
  | ret =>
    obtain ⟨a, l, -, rfl⟩ := h
    constructor <;> simp
  | drw x y n =>
    obtain ⟨f, -, -, rfl⟩ := h
    constructor <;> simp
  | call _ | ldB _ | ldMemVx _ | ldVxMem _ =>
    obtain ⟨-, rfl⟩ := h
    constructor <;> simp
  | high =>
    simp only [Completes] at h
    split at h <;> subst h <;> constructor <;> simp
  | _ =>
    subst h
    constructor <;> simp

end Sys2Proof.Machine
end

section
/-! The invariant of the state record is kept by every instruction, step, host command and run. -/

namespace Sys2Proof.Machine

/-! ### Instructions that complete -/

/-- Only the two stores write memory, and both check their whole transfer first (20_memory.md R74). -/
theorem Completes.keeps_mem {i : Instr} {s t : State} (h : Completes i s t) (hs : Memory.wf s.config s.mem) :
    Memory.wf t.config t.mem := by
  cases i with
  | ldB x =>
    obtain ⟨hfits, rfl⟩ := h
    exact Memory.wf_writeSpan _ (by simpa [bcdDigits, State.dataAddress] using hfits) hs
  | ldMemVx x =>
    obtain ⟨hfits, rfl⟩ := h
    exact Memory.wf_writeSpan _ (by simpa [State.regsUpTo_length, State.dataAddress] using hfits) hs
  | _ =>
    rw [h.fieldsOwned.config, h.fieldsOwned.mem.resolve_right (by simp)]
    exact hs

/-- A clear leaves no cell, a draw only cells of its own grid, and the resolution changes only with a clear
(44_display.md R200 to R202). -/
theorem Completes.keeps_fbWf {i : Instr} {s t : State} (h : Completes i s t) (hs : s.fbWf) : t.fbWf := by
  cases i with
  | cls =>
    subst h
    exact NatSet.wf_nil _
  | high =>
    simp only [Completes] at h
    split at h <;> subst h
    · exact hs
    · exact NatSet.wf_nil _
  | drw x y n =>
    obtain ⟨f, -, -, rfl⟩ := h
    refine blit_wf hs fun k hk => ?_
    obtain ⟨r, -, c, -, -, rfl⟩ := (State.mem_spriteCells _ _ _ _ _).1 hk
    exact State.spriteCell_lt _ _ _ _ _
  | _ =>
    have hfb := h.fieldsOwned.fb.resolve_right (by simp)
    have hhires := h.fieldsOwned.hires.resolve_right (by simp)
    simpa only [State.fbWf, State.width, State.height, hfb, hhires] using hs

/-- A call was fetched inside memory, so the address past it is at most `MEM_SIZE`, and it is refused at the limit
(41_control_flow.md R141, R143). -/
theorem Completes.keeps_stackWf {i : Instr} {s t : State} (h : Completes i s t)
    (hpc : s.pc.toNat + 1 < s.config.memSize) (hs : s.stackWf) : t.stackWf := by
  obtain ⟨hlimit, haddr⟩ := hs
  cases i with
  | call a =>
    obtain ⟨hroom, rfl⟩ := h
    refine ⟨fun n hn => ?_, fun b hb => ?_⟩
    · have hne : n ≠ s.stack.length := by
        rintro rfl
        exact hroom hn
      exact Nat.lt_of_le_of_ne (hlimit n hn) hne.symm
    · obtain rfl | hb := List.mem_cons.1 hb
      · have hpast : (s.pc + 2).toNat ≤ s.pc.toNat + 2 := Nat.mod_le _ _
        exact hpast.trans hpc
      · exact haddr b hb
  | ret =>
    obtain ⟨a, l, hstack, rfl⟩ := h
    rw [hstack] at hlimit haddr
    exact ⟨fun n hn => (Nat.le_succ _).trans (hlimit n hn), fun b hb => haddr b (List.mem_cons_of_mem _ hb)⟩
  | _ =>
    rw [State.stackWf, h.fieldsOwned.config, h.fieldsOwned.stack.resolve_right (by simp)]
    exact ⟨hlimit, haddr⟩

/-- An instruction that completes leaves no fault that was not recorded before. -/
theorem Completes.keeps_statusWf {i : Instr} {s t : State} (h : Completes i s t) (hs : s.statusWf) : t.statusWf := by
  intro f hf
  obtain hstatus | ⟨x, -, hstatus⟩ := h.fieldsOwned.status
  · rw [h.fieldsOwned.config]
    exact hs f (hstatus ▸ hf)
  · rw [hstatus] at hf
    cases hf

theorem Completes.keeps_inv {i : Instr} {s t : State} (h : Completes i s t)
    (hpc : s.pc.toNat + 1 < s.config.memSize) (hs : s.Inv) : t.Inv where
  config := by
    rw [h.fieldsOwned.config]
    exact hs.config
  mem := h.keeps_mem hs.mem
  fb := h.keeps_fbWf hs.fb
  keys := by
    rw [State.keysWf, h.fieldsOwned.keys]
    exact hs.keys
  stack := h.keeps_stackWf hpc hs.stack
  status := h.keeps_statusWf hs.status

/-! ### Steps, host commands and runs -/

/-- Taking a fault that is so keeps the invariant: only the status changes. -/
theorem State.Inv.takeFault {s : State} {f : Fault} (hs : s.Inv) (hf : f.consistent s.config) : (s.takeFault f).Inv :=
  { hs with
    status := by
      intro g hg
      cases hg
      exact hf }

/-- Settles O49: a step changes nothing, takes a fault that is so, or runs an instruction that keeps each part. -/
theorem stepKeepsTheStateRecord : Obligations.StepKeepsTheStateRecord := by
  intro s t hs hstep
  obtain rfl | ⟨-, f, rfl, hf⟩ | ⟨-, i, hi, hpc⟩ := step_cases hstep
  · exact hs
  · exact hs.takeFault hf
  · exact hi.keeps_inv hpc hs

theorem State.Inv.load {s : State} (hs : s.Inv) (bytes : List Byte) (offset : Nat) : (s.load bytes offset).1.Inv := by
  unfold State.load
  split
  · exact hs
  · next hfits =>
    exact State.inv_of_cleared hs.config (Memory.wf_writeSpan bytes (Nat.le_of_not_lt hfits) (Memory.wf_nil _))
      rfl rfl rfl rfl

theorem State.Inv.stepCommand {s : State} (hs : s.Inv) : s.stepCommand.1.Inv := by
  obtain ⟨t, hstep, ht⟩ | ⟨-, ht⟩ := s.stepCommand_state
  · rw [ht]
    exact stepKeepsTheStateRecord s t hs hstep
  · rw [ht]
    exact hs

theorem State.Inv.setKeys {s : State} (hs : s.Inv) {l : List Nat} (hl : NatSet.wf 16 l) : (s.setKeys l).Inv :=
  { hs with keys := hl }

/-- The key-down that ends a wait leaves the core ready, with no fault recorded. -/
theorem State.Inv.deliverKey {s : State} (hs : s.Inv) (k : Nat) : (s.deliverKey k).Inv := by
  by_cases hwait : ∃ x, s.status = .awaitingInput x
  · obtain ⟨x, hx⟩ := hwait
    rw [State.deliverKey_of_awaiting k hx]
    exact { hs with status := by simp [State.statusWf] }
  · rw [State.deliverKey_of_not_awaiting k (not_exists.1 hwait)]
    exact hs

/-- No part of the invariant speaks of the timers, and the keys stay below 16 (60_exceptions.md R254, R256). -/
theorem command_keeps_inv (c : Command) {s : State} (hs : s.Inv) : (command c s).1.Inv := by
  cases c with
  | load bytes offset => exact hs.load bytes offset
  | step => exact hs.stepCommand
  | updateTimers => exact { hs with }
  | setKeyDown k =>
    simp only [command, State.setKeyDown]
    split
    · next hk => exact (hs.setKeys (NatSet.wf_insert hk hs.keys)).deliverKey k
    · exact hs
  | setKeyUp k =>
    simp only [command, State.setKeyUp]
    split
    · exact hs.setKeys (NatSet.wf_erase k hs.keys)
    · exact hs

/-- Settles O50: by induction on the run, each command keeps the invariant. -/
theorem everyRunKeepsTheStateRecord : Obligations.EveryRunKeepsTheStateRecord := fun _ _ hs =>
  runCommands_keeps (fun c _ _ => command_keeps_inv c) hs

end Sys2Proof.Machine
end

section
/-! Which instructions change VF, and which change each piece of state outside `V`, `pc` and memory. -/

namespace Sys2Proof.Machine

/-! ### The only register that a write changes -/

theorem State.eq_of_reg_setReg_ne {s : State} {x y : VReg} {b : Byte} (h : (s.setReg x b).reg y ≠ s.reg y) : x = y := by
  rw [State.reg_setReg] at h
  by_contra hne
  exact h (if_neg (Ne.symm hne))

/-- Of the writes to `V0` .. `VX`, only one with X = F reaches VF. -/
theorem State.eq_vF_of_reg_setRegs_copyUpTo_ne {s : State} {x : VReg} {src : VReg → Byte}
    (h : (s.setRegs (copyUpTo x src s.v)).reg vF ≠ s.reg vF) : x = vF := by
  by_contra hne
  refine h ((copyUpTo_getElem x vF src s.v).trans (if_neg fun hle => hne ?_))
  exact le_antisymm (Fin.le_last x) hle

/-- A logic operation reaches VF as its flag or as its destination (42_alu.md R165 to R167). -/
theorem State.clears_or_eq_vF_of_reg_writeLogic_ne {s : State} {x : VReg} {r : Byte}
    (h : (s.writeLogic x r).reg vF ≠ s.reg vF) : s.config.logicClearsVf = true ∨ x = vF := by
  by_contra hnot
  obtain ⟨hkeeps, hx⟩ := not_or.1 hnot
  rw [State.reg_writeLogic, if_neg fun hc => hkeeps hc.1, if_neg (Ne.symm hx)] at h
  exact h rfl

/-- Settles O27: a fault leaves every register, and each instruction's effect names the registers it writes. -/
theorem writersOfVF : Obligations.WritersOfVF := by
  intro i s t hexec hne
  obtain ⟨f, rfl, -⟩ | h := exec_cases hexec
  · exact absurd (State.reg_takeFault s f vF) hne
  cases i with
  | addReg | subReg | subnReg | shr | shl | drw => trivial
  | orReg x y | andReg x y | xorReg x y =>
    subst h
    exact State.clears_or_eq_vF_of_reg_writeLogic_ne (s := s.advance) hne
  | ldImm x | addImm x | ldReg x | ldVxDt x | rnd x =>
    subst h
    exact State.eq_of_reg_setReg_ne (s := s.advance) hne
  | ldVxMem x =>
    obtain ⟨-, rfl⟩ := h
    exact State.eq_vF_of_reg_setRegs_copyUpTo_ne (s := s.advance) hne
  | ldVxR x =>
    subst h
    exact State.eq_vF_of_reg_setRegs_copyUpTo_ne (s := s.advance) hne
  | ret =>
    obtain ⟨a, l, -, rfl⟩ := h
    exact hne rfl
  | call _ | ldB _ | ldMemVx _ =>
    obtain ⟨-, rfl⟩ := h
    exact hne rfl
  | high =>
    simp only [Completes] at h
    split at h <;> subst h <;> exact hne rfl
  | seImm | sneImm | seReg | sneReg | skp | sknp =>
    subst h
    simp [State.reg] at hne
  | _ =>
    subst h
    exact hne rfl

/-- Settles O55: a fault changes the status alone, and an instruction that completes changes only what it owns. -/
theorem ownersOfEachStateField : Obligations.OwnersOfEachStateField := by
  intro i s t hexec
  obtain ⟨f, rfl, -⟩ | h := exec_cases hexec
  · simp
  · have own := h.fieldsOwned
    exact ⟨fun hne => .inl (own.status.resolve_left hne), own.i.resolve_left, own.stack.resolve_left,
      own.dt.resolve_left, own.st.resolve_left, own.flags.resolve_left, own.hires.resolve_left, own.fb.resolve_left,
      own.drawCount.resolve_left, own.keys, own.config⟩

end Sys2Proof.Machine
end

section
/-! High resolution until a load that fits, and the empty load that is reset. -/

namespace Sys2Proof.Machine

theorem State.load_of_oversize {s : State} {bytes : List Byte} {offset : Nat}
    (h : s.config.memSize < offset + bytes.length) : s.load bytes offset = (s, .romTooLarge) :=
  if_pos h

theorem State.load_of_fits {s : State} {bytes : List Byte} {offset : Nat}
    (h : offset + bytes.length ≤ s.config.memSize) : s.load bytes offset = (s.loadProgram bytes offset, .ok) :=
  if_neg (Nat.not_lt.2 h)

@[simp] theorem State.deliverKey_hires (s : State) (k : Nat) : (s.deliverKey k).hires = s.hires := by
  unfold State.deliverKey
  split <;> rfl

@[simp] theorem State.deliverKey_config (s : State) (k : Nat) : (s.deliverKey k).config = s.config := by
  unfold State.deliverKey
  split <;> rfl

/-- The parameters are fixed for a run of steps (10_state.md R31). -/
theorem step_config {s t : State} (h : step s = .next t) : t.config = s.config := by
  obtain rfl | ⟨-, f, rfl, -⟩ | ⟨-, i, hi, -⟩ := step_cases h
  · rfl
  · rfl
  · exact hi.fieldsOwned.config

/-- The one instruction that changes the resolution sets it (44_display.md R201). -/
theorem step_keeps_hires {s t : State} (h : step s = .next t) (hs : s.hires = true) : t.hires = true := by
  obtain rfl | ⟨-, f, rfl, -⟩ | ⟨-, i, hi, -⟩ := step_cases h
  · exact hs
  · exact hs
  · obtain heq | ⟨-, htrue⟩ := hi.fieldsOwned.hires
    · exact heq.trans hs
    · exact htrue

/-- No host command changes the parameters (10_state.md R31). -/
@[simp] theorem command_config (c : Command) (s : State) : (command c s).1.config = s.config := by
  cases c with
  | load bytes offset =>
    simp only [command, State.load]
    split <;> rfl
  | step =>
    obtain ⟨t, hstep, ht⟩ | ⟨-, ht⟩ := s.stepCommand_state
    · exact (congrArg State.config ht).trans (step_config hstep)
    · exact congrArg State.config ht
  | updateTimers => rfl
  | setKeyDown k =>
    simp only [command, State.setKeyDown]
    split <;> simp
  | setKeyUp k =>
    simp only [command, State.setKeyUp]
    split <;> simp

/-- A command that is no load that fits leaves high resolution as it is. -/
theorem command_keeps_hires {c : Command} {s : State}
    (hload : ∀ bytes offset, c = .load bytes offset → s.config.memSize < offset + bytes.length)
    (hs : s.hires = true) : (command c s).1.hires = true := by
  cases c with
  | load bytes offset =>
    rw [command, State.load_of_oversize (hload bytes offset rfl)]
    exact hs
  | step =>
    obtain ⟨t, hstep, ht⟩ | ⟨-, ht⟩ := s.stepCommand_state
    · exact (congrArg State.hires ht).trans (step_keeps_hires hstep hs)
    · exact (congrArg State.hires ht).trans hs
  | updateTimers => exact hs
  | setKeyDown k =>
    simp only [command, State.setKeyDown]
    split <;> simpa using hs
  | setKeyUp k =>
    simp only [command, State.setKeyUp]
    split <;> exact hs

/-- Settles O56: by induction on the run, with the parameters fixed, so that a load too large at the start stays so. -/
theorem highResolutionStaysUntilLoad : Obligations.HighResolutionStaysUntilLoad := by
  intro cs s hs hload
  have hrun : (runCommands cs s).1.hires = true ∧ (runCommands cs s).1.config = s.config := by
    refine runCommands_keeps (P := fun u => u.hires = true ∧ u.config = s.config) ?_ ⟨hs, rfl⟩
    rintro c hc u ⟨hu, hconfig⟩
    refine ⟨command_keeps_hires ?_ hu, (command_config c u).trans hconfig⟩
    rintro bytes offset rfl
    exact hconfig ▸ hload bytes offset hc
  exact hrun.1

/-- Settles O47: a cleared state with no byte copied depends on the parameters and the count of draws alone. -/
theorem resetIsAnEmptyLoad : Obligations.ResetIsAnEmptyLoad := by
  intro s hconfig hdraws
  have hfits : Config.defaultOffset + ([] : List Byte).length ≤ s.config.memSize := by
    rw [hconfig]
    decide
  have hreset : s.loadProgram [] Config.defaultOffset = State.reset := by
    simp [State.loadProgram, State.cleared, State.writeBytes, Memory.writeSpan, State.setMem, State.setPc, State.reset,
      hconfig, hdraws, Config.defaultOffset]
  rw [command, State.load_of_fits hfits, hreset]

end Sys2Proof.Machine
end

section
/-! No step reads the sound timer: changing it before a step changes nothing of the result but the timer itself. -/

namespace Sys2Proof.Machine

open Claims (agreeButSt)

/-! ### The operations that branch do not look at ST -/

theorem agreeButSt_skipIf (s : State) (b : Byte) (cond : Bool) :
    agreeButSt (.next (s.skipIf cond)) (.next ((s.setSt b).skipIf cond)) := by
  cases cond <;> rfl

theorem State.writeRF_setSt (s : State) (b : Byte) (x : VReg) (r f : Byte) :
    (s.setSt b).writeRF x r f = (s.writeRF x r f).setSt b := by
  unfold State.writeRF
  rw [State.setSt_config]
  split <;> rfl

theorem State.writeLogic_setSt (s : State) (b : Byte) (x : VReg) (r : Byte) :
    (s.setSt b).writeLogic x r = (s.writeLogic x r).setSt b := by
  unfold State.writeLogic
  rw [State.setSt_config, State.writeRF_setSt]
  split <;> rfl

theorem agreeButSt_writeRF (s : State) (b : Byte) (x : VReg) (r f : Byte) :
    agreeButSt (.next (s.writeRF x r f)) (.next ((s.setSt b).writeRF x r f)) := by
  rw [State.writeRF_setSt]
  rfl

theorem agreeButSt_writeLogic (s : State) (b : Byte) (x : VReg) (r : Byte) :
    agreeButSt (.next (s.writeLogic x r)) (.next ((s.setSt b).writeLogic x r)) := by
  rw [State.writeLogic_setSt]
  rfl

/-- A condition that both sides share takes both to the same branch. -/
theorem agreeButSt_ite {p : Prop} [Decidable p] {q r q' r' : Result} (hpos : agreeButSt q q')
    (hneg : agreeButSt r r') : agreeButSt (if p then q else r) (if p then q' else r') := by
  split
  · exact hpos
  · exact hneg

theorem agreeButSt_raise (s : State) (b : Byte) (f : Fault) : agreeButSt (raise f s) (raise f (s.setSt b)) := rfl

/-- A checked transfer takes the same branch, so only the states that it goes on to matter. -/
theorem agreeButSt_guardRange {s t u : State} (b : Byte) (base count : Nat) (h : agreeButSt (.next t) (.next u)) :
    agreeButSt (guardRange base count s t) (guardRange base count (s.setSt b) u) := by
  unfold guardRange
  rw [State.setSt_config]
  split
  · exact agreeButSt_raise s b _
  · exact h

/-! ### Instructions and steps -/

/-- Every instruction takes the same branches and writes the same values whatever ST holds; FX18, which writes ST, writes
the same byte. -/
theorem exec_agreeButSt (i : Instr) (s : State) (b : Byte) : agreeButSt (exec i s) (exec i (s.setSt b)) := by
  cases i with
  | ret =>
    simp only [exec, execRet, State.setSt_stack]
    split <;> rfl
  | call a => exact agreeButSt_ite (agreeButSt_raise s b _) rfl
  | high =>
    by_cases hstay : (s.hires && !s.config.hiresReentryClears) = true
    · simp only [exec, execHigh, State.setSt_hires, State.setSt_config, hstay]
      rfl
    · simp only [exec, execHigh, State.setSt_hires, State.setSt_config, hstay]
      rfl
  | seImm | sneImm | seReg | sneReg | skp | sknp => exact agreeButSt_skipIf s.advance b _
  | orReg x | andReg x | xorReg x => exact agreeButSt_writeLogic s.advance b x _
  | addReg x | subReg x | subnReg x | shr x | shl x => exact agreeButSt_writeRF s.advance b x _ _
  | ldB | ldMemVx | ldVxMem => exact agreeButSt_guardRange b _ _ rfl
  | drw x y n =>
    have hform : (s.setSt b).spriteForm n = s.spriteForm n := rfl
    simp only [exec, execDrw, hform]
    split
    · exact agreeButSt_raise s b _
    · exact agreeButSt_guardRange b _ _ rfl
  | _ => rfl

theorem step_agreeButSt (s : State) (b : Byte) : agreeButSt (step s) (step (s.setSt b)) := by
  have hfetch : (s.setSt b).fetch = s.fetch := rfl
  unfold step
  rw [State.setSt_status, hfetch, State.setSt_config]
  split
  · rfl
  · rfl
  · rfl
  · split
    · exact agreeButSt_raise s b _
    · split
      · exact exec_agreeButSt _ s b
      · exact agreeButSt_raise s b _

/-- Settles O57: the state with ST = b is `s.setSt b`, and fetching, decoding and every instruction are blind to it. -/
theorem soundTimerIsNeverRead : Obligations.SoundTimerIsNeverRead :=
  step_agreeButSt

end Sys2Proof.Machine
end

section
/-! Which bytes of memory a store changes, what the next fetch reads after one, and the fault of a BCD store or a draw
whose bytes are not all inside memory. -/

namespace Sys2Proof.Machine

/-! ### Reads before and after a write -/

/-- A read looks at memory and the parameters alone. -/
theorem State.readByte_congr {s t : State} (hconfig : t.config = s.config) (hmem : t.mem = s.mem) (a : Nat) :
    t.readByte a = s.readByte a := by
  rw [State.readByte, hconfig, hmem, State.readByte]

/-- A span of writes reaches only its own addresses (20_memory.md R72). -/
theorem State.mem_span_of_readByte_writeBytes_ne {s : State} {a k : Nat} {bs : List Byte}
    (h : (s.writeBytes a bs).readByte k ≠ s.readByte k) : a ≤ k ∧ k < a + bs.length := by
  by_contra hout
  exact h ((s.readByte_writeBytes a k bs).trans (if_neg hout))

/-- The bytes of a bulk store, each at the data address of its register (43_index_memory.md R184, R188). -/
theorem State.readByte_writeBytes_regsUpTo (s : State) {x k : VReg} (hk : k ≤ x) :
    (s.writeBytes (s.dataAddress 0) (s.regsUpTo x)).readByte (s.dataAddress k.val) = s.reg k := by
  have hoffset : s.dataAddress k.val - s.dataAddress 0 = k.val := Nat.add_sub_cancel_left _ _
  have hspan : s.dataAddress 0 ≤ s.dataAddress k.val ∧
      s.dataAddress k.val < s.dataAddress 0 + (s.regsUpTo x).length := by
    rw [State.regsUpTo_length]
    exact ⟨Nat.add_le_add_left (Nat.zero_le _) _, Nat.add_lt_add_left (Nat.lt_succ_of_le hk) _⟩
  rw [State.readByte_writeBytes, if_pos hspan, hoffset, State.regsUpTo_getD s x k hk]

/-- Settles O60: both clauses are laws of memory, which a state's reads and writes go through. -/
theorem memoryIsItsReads : Obligations.MemoryIsItsReads :=
  ⟨State.readByte_writeByte, fun s t hconfig hs ht hread => by
    simp only [State.readByte, hconfig] at ht hread
    exact Memory.ext_of_wf ht hs hread⟩

/-! ### The two stores -/

/-- Settles O54: a fault leaves memory, the two stores write their own span, and no other instruction owns memory. -/
theorem onlyTwoInstructionsStore : Obligations.OnlyTwoInstructionsStore := by
  intro i s t a hexec hne
  obtain ⟨f, rfl, -⟩ | h := exec_cases hexec
  · exact absurd rfl hne
  cases i with
  | ldB x =>
    obtain ⟨-, rfl⟩ := h
    obtain ⟨hfirst, hlast⟩ := State.mem_span_of_readByte_writeBytes_ne (s := s.advance) hne
    exact .inl ⟨x, rfl, hfirst, Nat.le_of_lt_succ hlast⟩
  | ldMemVx x =>
    obtain ⟨-, rfl⟩ := h
    obtain ⟨hfirst, hlast⟩ := State.mem_span_of_readByte_writeBytes_ne (s := s.advance) hne
    rw [State.regsUpTo_length] at hlast
    exact .inr ⟨x, rfl, hfirst, Nat.le_of_lt_succ hlast⟩
  | _ =>
    have own := h.fieldsOwned
    exact absurd (State.readByte_congr own.config (own.mem.resolve_right (by simp)) a) hne

/-- A bulk store whose bytes are all inside memory completes (43_index_memory.md R184). -/
theorem completes_ldMemVx_of_fits {x : VReg} {s t : State} (hfits : s.i.toNat + x.val < s.config.memSize)
    (hexec : exec (.ldMemVx x) s = .next t) : Completes (.ldMemVx x) s t :=
  ⟨hfits, Host.Outcome.next.inj (hexec.symm.trans (guardRange_of_fits _ (.inr hfits)))⟩

/-- After a completed bulk store each stored register reads at its own data address. -/
theorem Completes.readByte_ldMemVx {x k : VReg} {s t : State} (h : Completes (.ldMemVx x) s t) (hk : k ≤ x) :
    t.readByte (s.dataAddress k.val) = s.reg k := by
  obtain ⟨-, rfl⟩ := h
  exact s.advance.readByte_writeBytes_regsUpTo hk

/-- Settles O58: a bulk store that fits has both bytes inside memory, where the next fetch reads them, the one at the
lower address first (20_memory.md R75). -/
theorem storeIsSeenByTheNextFetch : Obligations.StoreIsSeenByTheNextFetch := by
  intro x k l s t _ hfits hexec hl hlx hpc
  have h := completes_ldMemVx_of_fits hfits hexec
  have hkx : k ≤ x := le_trans (Fin.le_def.2 (hl ▸ Nat.le_succ k.val)) hlx
  have hnext : t.pc.toNat + 1 = s.dataAddress l.val := by
    rw [hpc, hl]
    rfl
  have hwindow : t.pc.toNat + 1 < t.config.memSize := by
    rw [hnext, h.fieldsOwned.config]
    exact (Nat.add_le_add_left hlx _).trans_lt hfits
  rw [State.fetch_of_fits hwindow, hnext, hpc, h.readByte_ldMemVx hkx, h.readByte_ldMemVx hlx]
  rfl

/-! ### Transfers that leave memory -/

/-- A draw of some form whose bytes are not all inside memory takes the fault of the first that is not, before any write
(44_display.md R202; 60_exceptions.md R260). -/
theorem exec_drw_of_leaves {s : State} {x y : VReg} {n : Nat} {f : SpriteForm} (hform : s.spriteForm n = some f)
    (hsize : 0 < f.size) (h : s.config.memSize < s.i.toNat + f.size) :
    exec (.drw x y n) s = .next { s with status := .faulted (.outOfBounds (max s.i.toNat s.config.memSize)) } := by
  simp only [exec, execDrw, hform]
  exact guardRange_of_leaves _ hsize h

theorem State.spriteForm_of_rows (s : State) {n : Nat} (h : n ≠ 0) : s.spriteForm n = some ⟨8, n, 1⟩ := if_pos h

/-- The 32-byte form of `DXY0` (44_display.md R202, R206). -/
theorem State.spriteForm_zero_of_wide {s : State} (h : s.hires = true ∨ s.config.loresDxy0 = .sprite16) :
    s.spriteForm 0 = some ⟨16, 16, 2⟩ := by
  by_cases hhires : s.hires = true
  · simp [State.spriteForm, hhires]
  · simp [State.spriteForm, hhires, h.resolve_left hhires]

/-- Settles O32: both instructions check their whole transfer, the draw that of the form its row count selects. -/
theorem dataOutsideMemoryFaults : Obligations.DataOutsideMemoryFaults := by
  refine ⟨fun x s h => guardRange_of_leaves _ (by decide) h, fun x y n s h => ?_⟩
  obtain ⟨hrows, hleaves⟩ | ⟨rfl, hwide, hleaves⟩ := h
  · have hsize : SpriteForm.size ⟨8, n, 1⟩ = n := Nat.mul_one n
    refine exec_drw_of_leaves (s.spriteForm_of_rows hrows) ?_ ?_ <;> rw [hsize]
    · exact Nat.pos_of_ne_zero hrows
    · exact hleaves
  · exact exec_drw_of_leaves (State.spriteForm_zero_of_wide hwide) (by decide) hleaves

end Sys2Proof.Machine
end

section
/-! Which words fit which row of the opcode table, and decoding against the encoder: each instruction is read back from
its word, and each decoded word is rebuilt from its operands. -/

namespace Sys2Proof

/-! ### From an instruction to its word and back -/

open Laws.EncodesOwnRow in
/-- The per-instruction family, gathered over all 38 constructors. -/
theorem encodesOwnRow : ∀ i : Instr, Statement i
  | .nop => nop | .cls => cls | .ret => ret | .high => high | .jp n => jp n | .call n => call n
  | .seImm x nn => seImm x nn | .sneImm x nn => sneImm x nn | .seReg x y => seReg x y | .ldImm x nn => ldImm x nn
  | .addImm x nn => addImm x nn | .ldReg x y => ldReg x y | .orReg x y => orReg x y | .andReg x y => andReg x y
  | .xorReg x y => xorReg x y | .addReg x y => addReg x y | .subReg x y => subReg x y | .shr x y => shr x y
  | .subnReg x y => subnReg x y | .shl x y => shl x y | .sneReg x y => sneReg x y | .ldI n => ldI n
  | .jpV0 n => jpV0 n | .rnd x nn => rnd x nn | .drw x y n => drw x y n | .skp x => skp x | .sknp x => sknp x
  | .ldVxDt x => ldVxDt x | .ldVxK x => ldVxK x | .ldDtVx x => ldDtVx x | .ldStVx x => ldStVx x | .addI x => addI x
  | .ldF x => ldF x | .ldB x => ldB x | .ldMemVx x => ldMemVx x | .ldVxMem x => ldVxMem x | .ldRVx x => ldRVx x
  | .ldVxR x => ldVxR x

theorem decodeWord_encode (b : Bool) {i : Instr} (hi : i.wellFormed = true) : decodeWord b (encode i) = .ok i := by
  obtain ⟨r, hr, hfits, hbuild⟩ := encodesOwnRow i hi
  rw [decodeWord_of_fits b hr hfits, hbuild]

/-- Settles O1: the row of the instruction's word reads it back, and the word's two bytes form the word again. -/
theorem decodeOfEncodeIsTheInstruction : Obligations.DecodeOfEncodeIsTheInstruction := fun b _ hi =>
  ⟨decodeWord_encode b hi, (decodeBytes_bytesOfWord b _).trans (decodeWord_encode b hi)⟩

/-! ### The fields that a row's mask fixes -/

theorem classOf_eq_of_and_eq {w m p : Word} (hm : classOf m = 0xF) (hfits : w &&& m = p) : classOf w = classOf p := by
  rw [← hfits, classOf_and w m hm]

theorem lowNibble_eq_of_and_eq {w m p : Word} (hm : m.extractLsb' 0 4 = 0xF#4) (hfits : w &&& m = p) :
    w.extractLsb' 0 4 = p.extractLsb' 0 4 := by
  rw [← hfits, lowNibble_and w m hm]

theorem fieldNN_eq_of_and_eq {w m p : Word} (hm : fieldNN m = 0xFF) (hfits : w &&& m = p) : fieldNN w = fieldNN p := by
  rw [← hfits, fieldNN_and w m hm]

/-! ### From a word to its instruction and back -/

theorem encodeXS_fields (w : Word) : encodeXS (classOf w) (fieldX w) (fieldNN w) = w :=
  encodeXI_fields w

/-- The row's instruction is well-formed and encodes to the word that it was read from (30_encoding.md R115). -/
def OpRow.Rebuilds (r : OpRow) : Prop :=
  ∀ w : Word, w &&& r.mask = r.pattern → (r.build w).wellFormed = true ∧ encode (r.build w) = w

namespace OpRow.Rebuilds

theorem fixed (i : Instr) (hwf : i.wellFormed = true := by rfl) : Rebuilds ⟨0xFFFF, encode i, fun _ => i⟩ :=
  fun _ hfits => ⟨hwf, hfits.symm.trans BitVec.and_allOnes⟩

theorem formatA {p : Word} (f : BitVec 12 → Instr) (hwf : ∀ nnn, (f nnn).wellFormed = true := by exact fun _ => rfl)
    (henc : ∀ nnn, encode (f nnn) = encodeA (classOf p) nnn := by exact fun _ => rfl) :
    Rebuilds ⟨0xF000, p, fun w => f (fieldNNN w)⟩ := fun w hfits =>
  ⟨hwf _, by rw [henc, ← classOf_eq_of_and_eq (m := 0xF000) rfl hfits, encodeA_fields]⟩

theorem formatXI {p : Word} (f : VReg → Byte → Instr)
    (hwf : ∀ x nn, (f x nn).wellFormed = true := by exact fun _ _ => rfl)
    (henc : ∀ x nn, encode (f x nn) = encodeXI (classOf p) x nn := by exact fun _ _ => rfl) :
    Rebuilds ⟨0xF000, p, fun w => f (fieldX w) (fieldNN w)⟩ := fun w hfits =>
  ⟨hwf _ _, by rw [henc, ← classOf_eq_of_and_eq (m := 0xF000) rfl hfits, encodeXI_fields]⟩

theorem formatXY {p : Word} (f : VReg → VReg → Instr)
    (hwf : ∀ x y, (f x y).wellFormed = true := by exact fun _ _ => rfl)
    (henc : ∀ x y, encode (f x y) = encodeXY (classOf p) x y (p.extractLsb' 0 4) := by exact fun _ _ => rfl) :
    Rebuilds ⟨0xF00F, p, fun w => f (fieldX w) (fieldY w)⟩ := fun w hfits =>
  ⟨hwf _ _, by
    rw [henc, ← classOf_eq_of_and_eq (m := 0xF00F) rfl hfits, ← lowNibble_eq_of_and_eq (m := 0xF00F) rfl hfits,
      encodeXY_fields]⟩

/-- The one row of format XYN: its count is a 4-bit field, so it is below 16. -/
theorem drw : Rebuilds ⟨0xF000, 0xD000, fun w => .drw (fieldX w) (fieldY w) (fieldN w)⟩ := by
  intro w hfits
  have hclass : classOf w = 0xD := classOf_eq_of_and_eq rfl hfits
  refine ⟨decide_eq_true (fieldN_lt w), ?_⟩
  rw [encode, ofNat_fieldN, ← hclass, encodeXY_fields]

theorem formatXS {p : Word} (f : VReg → Instr) (hwf : ∀ x, (f x).wellFormed = true := by exact fun _ => rfl)
    (henc : ∀ x, encode (f x) = encodeXS (classOf p) x (fieldNN p) := by exact fun _ => rfl) :
    Rebuilds ⟨0xF0FF, p, fun w => f (fieldX w)⟩ := fun w hfits =>
  ⟨hwf _, by
    rw [henc, ← classOf_eq_of_and_eq (m := 0xF0FF) rfl hfits, ← fieldNN_eq_of_and_eq (m := 0xF0FF) rfl hfits,
      encodeXS_fields]⟩

end OpRow.Rebuilds

/-- No row of the table drops a bit: what its mask leaves free are the operands of its format (30_encoding.md R106,
R115). -/
theorem opcodeRows_rebuild : ∀ r ∈ opcodeRows, r.Rebuilds := by
  simp only [opcodeRows, List.cons_append, List.nil_append, List.forall_mem_cons]
  exact ⟨.fixed .nop, .fixed .cls, .fixed .ret, .fixed .high, .formatA .jp, .formatA .call, .formatXI .seImm,
    .formatXI .sneImm, .formatXY .seReg, .formatXI .ldImm, .formatXI .addImm, .formatXY .ldReg, .formatXY .orReg,
    .formatXY .andReg, .formatXY .xorReg, .formatXY .addReg, .formatXY .subReg, .formatXY .shr, .formatXY .subnReg,
    .formatXY .shl, .formatXY .sneReg, .formatA .ldI, .formatA .jpV0, .formatXI .rnd, .drw, .formatXS .skp,
    .formatXS .sknp, .formatXS .ldVxDt, .formatXS .ldVxK, .formatXS .ldDtVx, .formatXS .ldStVx, .formatXS .addI,
    .formatXS .ldF, .formatXS .ldB, .formatXS .ldMemVx, .formatXS .ldVxMem, .formatXS .ldRVx, .formatXS .ldVxR,
    List.forall_mem_nil _⟩

/-! ### Words of no row -/

/-- A word of no row is rejected by name (30_encoding.md R114). -/
theorem decodeWord_false_of_no_row {w : Word} (hno : ∀ r ∈ opcodeRows, w &&& r.mask ≠ r.pattern) :
    decodeWord false w = .error (.unknownInstruction w) := by
  obtain ⟨r, hr, hfits, -⟩ | ⟨-, hdecode⟩ := decodeWord_cases false w
  · exact absurd hfits (hno r hr)
  · exact hdecode.trans (if_neg fun h => Bool.false_ne_true h.1)

theorem decodeWord_false_eq_error_iff (w : Word) :
    decodeWord false w = .error (.unknownInstruction w) ↔ ∀ r ∈ opcodeRows, w &&& r.mask ≠ r.pattern := by
  refine ⟨fun herr r hr hfits => ?_, decodeWord_false_of_no_row⟩
  cases herr.symm.trans (decodeWord_of_fits false hr hfits)

/-- Settles O2: a strictly decoded word has a row, and that row rebuilds it. -/
theorem encodeOfDecodeIsTheWord : Obligations.EncodeOfDecodeIsTheWord := by
  intro w i hdecode
  obtain ⟨r, hr, hfits, hbuild⟩ | ⟨hno, -⟩ := decodeWord_cases false w
  · cases hdecode.symm.trans hbuild
    exact opcodeRows_rebuild r hr w hfits
  · cases hdecode.symm.trans (decodeWord_false_of_no_row hno)

/-- Settles O3: the rows are disjoint, so the row found first is the only one. -/
theorem decodingIsByTheUniqueRow : Obligations.DecodingIsByTheUniqueRow := fun _ =>
  ⟨fun _ hr hfits => ⟨fun b => decodeWord_of_fits b hr hfits, fun _ hr' hfits' => row_unique hr' hr hfits' hfits⟩,
    decodeWord_false_of_no_row⟩

/-! ### The words of each mask, by field -/

theorem and_FFFF_eq_iff {w p : Word} : w &&& 0xFFFF = p ↔ w = p := by
  rw [show w &&& 0xFFFF = w from BitVec.and_allOnes]

theorem and_F000_eq_iff {w p : Word} (hp : p &&& 0xF000 = p) : w &&& 0xF000 = p ↔ classOf w = classOf p := by
  have masked (u : Word) : u &&& 0xF000 = classOf u ++ 0#12 := by
    rw [← encodeA_fixed, encodeA_fields]
  refine ⟨classOf_eq_of_and_eq rfl, fun hclass => ?_⟩
  rw [← hp, masked w, masked p, hclass]

theorem and_F00F_eq_iff {w p : Word} (hp : p &&& 0xF00F = p) :
    w &&& 0xF00F = p ↔ classOf w = classOf p ∧ fieldN w = fieldN p := by
  have masked (u : Word) : u &&& 0xF00F = classOf u ++ 0#4 ++ 0#4 ++ BitVec.ofNat 4 (fieldN u) := by
    rw [ofNat_fieldN, ← encodeXY_fixed, encodeXY_fields]
  refine ⟨fun h => ⟨classOf_eq_of_and_eq rfl h, congrArg BitVec.toNat (lowNibble_eq_of_and_eq rfl h)⟩, ?_⟩
  rintro ⟨hclass, hsub⟩
  rw [← hp, masked w, masked p, hclass, hsub]

theorem and_F0FF_eq_iff {w p : Word} (hp : p &&& 0xF0FF = p) :
    w &&& 0xF0FF = p ↔ classOf w = classOf p ∧ fieldNN w = fieldNN p := by
  have masked (u : Word) : u &&& 0xF0FF = classOf u ++ 0#4 ++ fieldNN u := by
    rw [← encodeXS_fixed, encodeXS_fields]
  refine ⟨fun h => ⟨classOf_eq_of_and_eq rfl h, fieldNN_eq_of_and_eq rfl h⟩, ?_⟩
  rintro ⟨hclass, hsub⟩
  rw [← hp, masked w, masked p, hclass, hsub]

/-- The words of no row, class by class: a class is one row, or a few rows told apart by the low nibble or byte. -/
theorem no_row_iff (w : Word) : (∀ r ∈ opcodeRows, w &&& r.mask ≠ r.pattern) ↔
    (w ≠ 0x0000 ∧ w ≠ 0x00E0 ∧ w ≠ 0x00EE ∧ w ≠ 0x00FF) ∧
    classOf w ∉ ([0x1, 0x2, 0x3, 0x4, 0x6, 0x7, 0xA, 0xB, 0xC, 0xD] : List (BitVec 4)) ∧
    (classOf w = 0x5 ∨ classOf w = 0x9 → fieldN w ≠ 0) ∧
    (classOf w = 0x8 → fieldN w ∉ [0, 1, 2, 3, 4, 5, 6, 7, 14]) ∧
    (classOf w = 0xE → fieldNN w ≠ 0x9E ∧ fieldNN w ≠ 0xA1) ∧
    (classOf w = 0xF →
      fieldNN w ∉ ([0x07, 0x0A, 0x15, 0x18, 0x1E, 0x29, 0x33, 0x55, 0x65, 0x75, 0x85] : List Byte)) := by
  simp only [opcodeRows, List.cons_append, List.nil_append, List.forall_mem_cons, ne_eq]
  simp (disch := decide) only [and_FFFF_eq_iff, and_F000_eq_iff, and_F00F_eq_iff, and_F0FF_eq_iff]
  -- With the word's own fields named, only those of the row patterns are left to compute.
  generalize classOf w = c, fieldN w = n, fieldNN w = nn
  simp only [classOf, fieldN, fieldNN, BitVec.ofNat_eq_ofNat, BitVec.reduceExtractLsb', BitVec.reduceToNat]
  simp only [List.mem_cons, List.not_mem_nil, IsEmpty.forall_iff, implies_true, and_true, or_false, not_and, not_or,
    or_imp, imp_and, and_assoc]
  tauto

theorem ne_of_classOf_ne_zero {w : Word} (hc : classOf w ≠ 0x0) :
    w ≠ 0x0000 ∧ w ≠ 0x00E0 ∧ w ≠ 0x00EE ∧ w ≠ 0x00FF := by
  refine ⟨?_, ?_, ?_, ?_⟩ <;> (rintro rfl; exact hc rfl)

/-- Settles O5: of each class, the words of no row are those that R114 lists. -/
theorem illegalWordsAreExactlyThese : Obligations.IllegalWordsAreExactlyThese := by
  intro w
  rw [decodeWord_false_eq_error_iff, no_row_iff]
  have hclasses : ∀ c : BitVec 4, c ∉ ([0x1, 0x2, 0x3, 0x4, 0x6, 0x7, 0xA, 0xB, 0xC, 0xD] : List (BitVec 4)) →
      c = 0x0 ∨ (c = 0x5 ∨ c = 0x9) ∨ c = 0x8 ∨ c = 0xE ∨ c = 0xF := by decide
  have hclass8 : ∀ n < 16, n ∉ [0, 1, 2, 3, 4, 5, 6, 7, 14] ↔ n ∈ [8, 9, 10, 11, 12, 13, 15] := by decide
  constructor
  · rintro ⟨h0, hrows, h59, h8, hE, hF⟩
    obtain hc | hc | hc | hc | hc := hclasses _ hrows
    · exact .inl ⟨hc, h0⟩
    · exact .inr (.inl ⟨hc, h59 hc⟩)
    · exact .inr (.inr (.inl ⟨hc, (hclass8 _ (fieldN_lt w)).1 (h8 hc)⟩))
    · exact .inr (.inr (.inr (.inl ⟨hc, hE hc⟩)))
    · exact .inr (.inr (.inr (.inr ⟨hc, hF hc⟩)))
  · rintro (⟨hc, h0⟩ | ⟨hc | hc, hn⟩ | ⟨hc, hn⟩ | ⟨hc, hnn⟩ | ⟨hc, hnn⟩)
    · exact ⟨h0, by simp [hc]⟩
    · exact ⟨ne_of_classOf_ne_zero (by simp [hc]), by simpa [hc] using hn⟩
    · exact ⟨ne_of_classOf_ne_zero (by simp [hc]), by simpa [hc] using hn⟩
    · exact ⟨ne_of_classOf_ne_zero (by simp [hc]), by simpa [hc] using (hclass8 _ (fieldN_lt w)).2 hn⟩
    · exact ⟨ne_of_classOf_ne_zero (by simp [hc]), by simpa [hc] using hnn⟩
    · exact ⟨ne_of_classOf_ne_zero (by simp [hc]), by simpa [hc] using hnn⟩

/-! ### SYS_AS_NOP -/

/-- Settles O6: the setting matters only for a word of no row, and of class 0 the words with a row are NOP's own 0000 and
the three excepted ones. -/
theorem sysAsNopWidensOnlyNop : Obligations.SysAsNopWidensOnlyNop := by
  intro w
  obtain ⟨r, hr, hfits, -⟩ | ⟨hno, htrue⟩ := decodeWord_cases true w
  · rw [decodeWord_of_fits true hr hfits, ← decodeWord_of_fits false hr hfits]
    split
    · next hsys =>
      obtain ⟨hc, hexcepted⟩ := hsys
      by_cases hw : w = 0x0000
      · subst hw
        exact decodeWord_encode false (i := .nop) rfl
      · have herr := (illegalWordsAreExactlyThese w).2 (.inl ⟨hc, hw, hexcepted⟩)
        exact absurd hfits ((decodeWord_false_eq_error_iff w).1 herr r hr)
    · rfl
  · obtain ⟨⟨-, hexcepted⟩, -⟩ := (no_row_iff w).1 hno
    rw [htrue, decodeWord_false_of_no_row hno]
    exact if_congr ⟨fun ⟨_, hc⟩ => ⟨hc, hexcepted⟩, fun ⟨hc, _⟩ => ⟨rfl, hc⟩⟩ rfl rfl

/-! ### Words written out -/

/-- Settles O4: each word but the last is the encoding of its instruction, and the last is a word of class F that R114
lists. -/
theorem wordsOfTheOpcodeMap : Obligations.WordsOfTheOpcodeMap :=
  ⟨decodeWord_encode false (i := .ret) rfl, decodeWord_encode false (i := .jp 0xABC) rfl,
    decodeWord_encode false (i := .ldImm 10 0x3E) rfl, decodeWord_encode false (i := .addReg 1 2) rfl,
    decodeWord_encode false (i := .ldI 0x123) rfl, decodeWord_encode false (i := .drw 0 1 5) rfl,
    decodeWord_encode false (i := .skp 5) rfl, decodeWord_encode false (i := .ldVxK 3) rfl,
    decodeWord_encode false (i := .ldMemVx 0) rfl,
    (illegalWordsAreExactlyThese 0xFFFF).2 (.inr (.inr (.inr (.inr ⟨rfl, by decide⟩))))⟩

end Sys2Proof
end

section
/-! One step in `ready`, by what the fetch and the decoder answer. -/

namespace Sys2Proof.Machine

theorem step_of_fetch_error {s : State} {f : Fault} (hready : s.status = .ready) (hfetch : s.fetch = .error f) :
    step s = raise f s := by
  simp only [step, hready, hfetch]

theorem step_of_decodes {s : State} {w : Word} {i : Instr} (hready : s.status = .ready)
    (hfetch : s.fetch = .ok w) (hdecode : decodeWord s.config.sysAsNop w = .ok i) : step s = exec i s := by
  simp only [step, hready, hfetch, hdecode]

theorem step_of_decode_error {s : State} {w : Word} {e : DecodeError} (hready : s.status = .ready)
    (hfetch : s.fetch = .ok w) (hdecode : decodeWord s.config.sysAsNop w = .error e) :
    step s = raise (.unknownInstruction w) s := by
  simp only [step, hready, hfetch, hdecode, raiseUnknown]

/-- Settles O7: the fetched word is that of the two bytes, the one at `pc` first. -/
theorem stepRunsTheDecodedInstruction : Obligations.StepRunsTheDecodedInstruction := fun _ _ hready hwindow hdecode =>
  step_of_decodes hready (State.fetch_of_fits hwindow) hdecode

/-- Settles O8: the fetch names the window's first bad address, and raising its fault writes the status alone. -/
theorem fetchOutsideMemoryFaults : Obligations.FetchOutsideMemoryFaults := fun s hready hleaves =>
  (step_of_fetch_error hready (State.fetch_of_leaves hleaves)).trans (raise_eq _ s)

/-- Settles O9: the rejected word is the fetched one, and raising its fault writes the status alone. -/
theorem unknownWordFaults : Obligations.UnknownWordFaults := fun s hready hwindow hdecode =>
  (step_of_decode_error hready (State.fetch_of_fits hwindow) hdecode).trans (raise_eq _ s)

end Sys2Proof.Machine
end

section
/-! Control flow: where each instruction leaves `pc`, the stack of calls and returns, and the self-jump that steps in place. -/

namespace Sys2Proof.Machine

/-! ### Jump targets -/

theorem addressOperand_toNat (nnn : BitVec 12) : (addressOperand nnn).toNat = nnn.toNat :=
  BitVec.toNat_setWidth_of_le (by decide)

/-- The target of `JP V0` never wraps: 12 bits and a byte stay below 2^16 (41_control_flow.md R148). -/
theorem jpV0Target_toNat (nnn : BitVec 12) (b : Byte) :
    (BitVec.ofNat 16 (nnn.toNat + b.toNat)).toNat = nnn.toNat + b.toNat := by
  have hnnn := nnn.isLt
  have hb := b.isLt
  rw [BitVec.toNat_ofNat]
  omega

/-- Settles O14: each meaning writes `pc` alone, and neither target is truncated. -/
theorem nopAndJumpsSetPcAlone : Obligations.NopAndJumpsSetPcAlone :=
  ⟨fun _ => rfl, fun nnn _ => ⟨_, rfl, rfl, addressOperand_toNat nnn⟩,
    fun nnn s => ⟨_, rfl, rfl, jpV0Target_toNat nnn (s.reg 0)⟩⟩

/-! ### Calls and returns -/

theorem exec_call_of_room (nnn : BitVec 12) {s : State} (h : s.config.stackLimit ≠ some s.stack.length) :
    exec (.call nnn) s = .next { s with pc := addressOperand nnn, stack := (s.pc + 2) :: s.stack } :=
  if_neg h

theorem exec_call_at_limit (nnn : BitVec 12) {s : State} (h : s.config.stackLimit = some s.stack.length) :
    exec (.call nnn) s = .next { s with status := .faulted .stackOverflow } :=
  if_pos h

theorem exec_ret_of_cons {s : State} {a : Word} {rest : List Word} (h : s.stack = a :: rest) :
    exec .ret s = .next { s with pc := a, stack := rest } := by
  simp only [exec, execRet, h]
  rfl

theorem exec_ret_of_nil {s : State} (h : s.stack = []) :
    exec .ret s = .next { s with status := .faulted .stackUnderflow } := by
  simp only [exec, execRet, h, raise_eq]

/-- Settles O15: the limit test decides between the push with the jump and the fault. -/
theorem callPushesOrOverflows : Obligations.CallPushesOrOverflows := fun nnn _ =>
  ⟨fun hroom => ⟨_, exec_call_of_room nnn hroom, rfl, addressOperand_toNat nnn⟩, exec_call_at_limit nnn⟩

/-- Settles O16: 00EE is the encoding of RET, and its meaning splits on whether the stack is empty. -/
theorem returnPopsOrUnderflows : Obligations.ReturnPopsOrUnderflows :=
  ⟨fun b => decodeWord_encode b (i := .ret) rfl, fun _ _ _ => exec_ret_of_cons, fun _ => exec_ret_of_nil⟩

/-- Settles O17: the call left its return address on top of the old stack, and the return pops just that. -/
theorem returnUndoesCall : Obligations.ReturnUndoesCall := by
  intro nnn s t u hroom hcall hstack
  cases hcall.symm.trans (exec_call_of_room nnn hroom)
  exact exec_ret_of_cons hstack

/-! ### Skips and the advance -/

/-- A skip adds 2 more to the advance's own 2 (00_scope.md R18; 30_encoding.md R104). -/
theorem State.skipIf_advance (s : State) (cond : Bool) :
    s.advance.skipIf cond = { s with pc := s.pc + if cond then 4 else 2 } := by
  cases cond with
  | false => rfl
  | true =>
    have hpc : s.pc + 2 + 2 = s.pc + 4 := BitVec.add_assoc s.pc 2 2
    simp only [State.skipIf, State.setPc, State.advance, hpc, if_true]

theorem State.skipIf_advance_pc (s : State) (cond : Bool) :
    (s.advance.skipIf cond).pc = s.pc + 2 ∨ (s.advance.skipIf cond).pc = s.pc + 4 := by
  rw [State.skipIf_advance]
  cases cond with
  | false => exact .inl rfl
  | true => exact .inr rfl

/-- Settles O18: each word is its skip's encoding, and each skip is an advance by 4 or 2 on its comparison. -/
theorem registerSkips : Obligations.RegisterSkips := by
  intro b x y nn s
  refine ⟨⟨decodeWord_encode b (i := .seImm x nn) rfl, ?_⟩, ⟨decodeWord_encode b (i := .sneImm x nn) rfl, ?_⟩,
    ⟨decodeWord_encode b (i := .seReg x y) rfl, ?_⟩, ⟨decodeWord_encode b (i := .sneReg x y) rfl, ?_⟩⟩
  · simp only [exec, execSeImm, State.skipIf_advance, beq_iff_eq]
  · simp only [exec, execSneImm, State.skipIf_advance, bne_iff_ne, ite_not]
  · simp only [exec, execSeReg, State.skipIf_advance, beq_iff_eq]
  · simp only [exec, execSneReg, State.skipIf_advance, bne_iff_ne, ite_not]

/-- Settles O19: a fault is excluded, and of the effects only those of the jumps, calls, returns and skips write `pc` after
the advance. -/
theorem onlyControlTransfersMovePc : Obligations.OnlyControlTransfersMovePc := by
  intro i s t _ hexec hnofault
  obtain ⟨f, rfl, -⟩ | h := exec_cases hexec
  · exact absurd rfl (hnofault f)
  cases i with
  | jp | call | ret | jpV0 => trivial
  | seImm | sneImm | seReg | sneReg | skp | sknp =>
    subst h
    exact s.skipIf_advance_pc _
  | ldB | ldMemVx | ldVxMem =>
    obtain ⟨-, rfl⟩ := h
    rfl
  | drw =>
    obtain ⟨f, -, -, rfl⟩ := h
    rfl
  | high =>
    simp only [Completes] at h
    split at h <;> subst h <;> rfl
  | _ =>
    subst h
    simp

/-! ### The self-jump -/

/-- A word of class 1 is a jump to its own NNN (30_encoding.md R112). -/
theorem decodeWord_of_classOf_eq_one (b : Bool) {w : Word} (h : classOf w = 1) :
    decodeWord b w = .ok (.jp (fieldNNN w)) := by
  have henc : encode (.jp (fieldNNN w)) = w := by
    rw [encode, ← h, encodeA_fields]
  exact (congrArg (decodeWord b) henc).symm.trans (decodeWord_encode b rfl)

/-- In `ready` the only end of a run is a fetched self-jump (70_reset_and_hazards.md R292). -/
theorem State.fetch_of_endOfRun {s : State} (hready : s.status = .ready) (hend : s.endOfRun = true) :
    ∃ w, s.fetch = .ok w ∧ classOf w = 1 ∧ (fieldNNN w).toNat = s.pc.toNat := by
  simp only [State.endOfRun, hready] at hend
  split at hend
  · next w hw => exact ⟨w, hw, by simpa using hend⟩
  · cases hend

theorem exec_jp_of_target_eq_pc {s : State} {nnn : BitVec 12} (h : nnn.toNat = s.pc.toNat) :
    exec (.jp nnn) s = .next s := by
  have htarget : addressOperand nnn = s.pc := BitVec.eq_of_toNat_eq ((addressOperand_toNat nnn).trans h)
  simp only [exec, execJp, htarget]
  rfl

theorem step_of_self_jump {s : State} (hready : s.status = .ready) (hend : s.endOfRun = true) : step s = .next s := by
  obtain ⟨w, hfetch, hclass, htarget⟩ := State.fetch_of_endOfRun hready hend
  rw [step_of_decodes hready hfetch (decodeWord_of_classOf_eq_one _ hclass), exec_jp_of_target_eq_pc htarget]

/-- A run of steps alone stays in a state that steps to itself. -/
theorem runCommands_step_of_fixed {s : State} (h : step s = .next s) (n : Nat) :
    (runCommands (List.replicate n .step) s).1 = s := by
  refine runCommands_keeps (P := (· = s)) ?_ rfl
  rintro c hc u rfl
  rw [List.eq_of_mem_replicate hc, command, State.stepCommand, h]

/-- Settles O59: the fetched jump writes to `pc` the value it holds, so every step of a run finds the same state. -/
theorem selfJumpStepsInPlace : Obligations.SelfJumpStepsInPlace := fun _ n hready hend =>
  have hstep := step_of_self_jump hready hend
  ⟨hstep, runCommands_step_of_fixed hstep n⟩

end Sys2Proof.Machine
end

section
/-! Register arithmetic and logic: what the two register writes of 42_alu.md leave, the flag of each operation as a
number, and the instructions assembled from them. -/

namespace Sys2Proof.Machine

/-! ### The write of result and flag -/

/-- Only the register file changes. -/
theorem State.writeRF_eq_setRegs (s : State) (x : VReg) (r f : Byte) :
    s.writeRF x r f = s.setRegs (s.writeRF x r f).v := by
  unfold State.writeRF
  split <;> rfl

theorem State.reg_writeRF_of_ne (s : State) {x y : VReg} (r f : Byte) (hx : y ≠ x) (hF : y ≠ vF) :
    (s.writeRF x r f).reg y = s.reg y := by
  rw [State.reg_writeRF, if_neg fun h => hF h.1, if_neg hx]

/-- The destination keeps the result unless the flag overwrites it (42_alu.md R161). -/
theorem State.reg_writeRF_result (s : State) {x : VReg} (r f : Byte)
    (h : x ≠ vF ∨ s.config.vfOrder = .resultLast) : (s.writeRF x r f).reg x = r := by
  have hnoflag : ¬(x = vF ∧ (x ≠ vF ∨ s.config.vfOrder = .flagLast)) := by
    rintro ⟨hx, hne | hlast⟩
    · exact hne hx
    · cases hlast.symm.trans (h.resolve_left (absurd hx))
  rw [State.reg_writeRF, if_neg hnoflag, if_pos rfl]

/-- VF keeps the flag unless the result overwrites it (42_alu.md R161). -/
theorem State.reg_writeRF_flag (s : State) {x : VReg} (r f : Byte)
    (h : x ≠ vF ∨ s.config.vfOrder = .flagLast) : (s.writeRF x r f).reg vF = f := by
  rw [State.reg_writeRF, if_pos ⟨rfl, h⟩]

/-! ### The write of a logic operation -/

/-- Only the register file changes. -/
theorem State.writeLogic_eq_setRegs (s : State) (x : VReg) (r : Byte) :
    s.writeLogic x r = s.setRegs (s.writeLogic x r).v := by
  unfold State.writeLogic
  split
  · exact s.writeRF_eq_setRegs x r 0
  · rfl

theorem State.reg_writeLogic_of_ne (s : State) {x y : VReg} (r : Byte) (hx : y ≠ x) (hF : y ≠ vF) :
    (s.writeLogic x r).reg y = s.reg y := by
  rw [State.reg_writeLogic, if_neg fun h => hF h.2.1, if_neg hx]

theorem State.reg_writeLogic_result (s : State) {x : VReg} (r : Byte) (hx : x ≠ vF) :
    (s.writeLogic x r).reg x = r := by
  rw [State.reg_writeLogic, if_neg fun h => hx h.2.1, if_pos rfl]

theorem State.reg_writeLogic_flag (s : State) {x : VReg} (r : Byte) (hx : x ≠ vF) :
    (s.writeLogic x r).reg vF = if s.config.logicClearsVf then 0 else s.reg vF := by
  simp only [State.reg_writeLogic, hx, hx.symm, ne_eq, not_false_eq_true, true_or, and_true, if_false]

theorem State.reg_writeLogic_vF (s : State) (r : Byte) :
    (s.writeLogic vF r).reg vF =
      if s.config.logicClearsVf = true ∧ s.config.vfOrder = .flagLast then 0 else r := by
  simp only [State.reg_writeLogic, ne_eq, not_true_eq_false, false_or, true_and, if_true]

/-! ### Results and flags as numbers -/

/-- The model's `trunc_8(a - b + 256)` is the difference modulo 256 (42_alu.md R169, R171). -/
theorem differenceByte_toInt (a b : Byte) :
    ((differenceByte a b).toNat : Int) = ((a.toNat : Int) - (b.toNat : Int)) % 256 := by
  have hb := b.isLt
  rw [differenceByte_toNat]
  omega

theorem flagByte_decide (p : Prop) [Decidable p] : flagByte (decide p) = if p then 1 else 0 := by
  simp only [flagByte, decide_eq_true_eq]

/-- A flag is the bit that it stands for (10_state.md R35). -/
theorem flagByte_toNat_of_iff {b : Bool} {n : Nat} (hn : n < 2) (h : b = true ↔ n = 1) : (flagByte b).toNat = n := by
  cases b with
  | false =>
    have hne : n ≠ 1 := fun h1 => Bool.false_ne_true (h.2 h1)
    change 0 = n
    omega
  | true => exact (h.1 rfl).symm

theorem flagByte_shiftedOutRight_toNat (a : Byte) : (flagByte (shiftedOutRight a)).toNat = a.toNat % 2 :=
  flagByte_toNat_of_iff (Nat.mod_lt _ Nat.two_pos) (shiftedOutRight_iff a)

theorem flagByte_shiftedOutLeft_toNat (a : Byte) : (flagByte (shiftedOutLeft a)).toNat = a.toNat / 128 := by
  have ha := a.isLt
  exact flagByte_toNat_of_iff (by omega) ((shiftedOutLeft_iff a).trans (by omega))

theorem State.shiftOperand_eq_ite (s : State) (x y : VReg) :
    s.shiftOperand x y = if s.config.shiftSource = .vx then s.reg x else s.reg y := by
  unfold State.shiftOperand
  cases s.config.shiftSource <;> rfl

/-! ### Loads, the immediate addition and the random byte -/

/-- Settles O20: each word is its load's encoding, and each load sets the one register after the advance. -/
theorem loadImmediateAndMove : Obligations.LoadImmediateAndMove := fun b x y nn s =>
  ⟨⟨decodeWord_encode b (i := .ldImm x nn) rfl, _, rfl, rfl, fun r => s.advance.reg_setReg x r nn⟩,
    decodeWord_encode b (i := .ldReg x y) rfl, _, rfl, rfl, fun r => s.advance.reg_setReg x r (s.reg y)⟩

/-- Settles O21: the sum goes to V[X] alone, so VF changes only as the destination. -/
theorem addImmediateHasNoCarry : Obligations.AddImmediateHasNoCarry := by
  intro x nn s
  refine ⟨_, rfl, rfl, ?_, fun r hr => (s.advance.reg_setReg x r _).trans (if_neg hr)⟩
  rw [State.setReg_reg_self, sumByte_toNat]

/-- Settles O26: the drawn byte is only masked, and a masked byte has no bit in common with the mask's complement. -/
theorem randomIsMaskedFreeByte : Obligations.RandomIsMaskedFreeByte := by
  refine ⟨fun r x nn s => ⟨_, rfl, rfl, fun k => s.advance.reg_setReg x k (r &&& nn)⟩,
    fun x nn s => ⟨_, rfl, rfl, ?_⟩⟩
  rw [State.reg_countDraw, State.setReg_reg_self, BitVec.and_assoc, BitVec.and_not_self]
  exact BitVec.and_zero

/-! ### Logic -/

/-- Settles O22: the three operations share one write, of which the destination VF is a case of its own. -/
theorem logicOperations : Obligations.LogicOperations := by
  intro x y s i result hi
  have hexec : exec i s = .next (s.advance.writeLogic x result) := by
    obtain ⟨rfl, rfl⟩ | ⟨rfl, rfl⟩ | ⟨rfl, rfl⟩ := hi <;> rfl
  refine ⟨_, hexec, s.advance.writeLogic_eq_setRegs x result, fun r => s.advance.reg_writeLogic_of_ne result,
    fun hx => ⟨s.advance.reg_writeLogic_result result hx, s.advance.reg_writeLogic_flag result hx⟩, ?_⟩
  rintro rfl
  exact s.advance.reg_writeLogic_vF result

/-! ### Arithmetic with a flag -/

/-- What the instructions that write a result and a flag share, whatever the two bytes are (42_alu.md R161). -/
theorem exists_writeRF_of_exec {i : Instr} {s : State} {x : VReg} {r f : Byte}
    (hexec : exec i s = .next (s.advance.writeRF x r f)) :
    ∃ t, exec i s = .next t ∧ t = { s with v := t.v, pc := s.pc + 2 } ∧
      (∀ k, k ≠ x → k ≠ vF → t.reg k = s.reg k) ∧
      (x ≠ vF ∨ s.config.vfOrder = .resultLast → t.reg x = r) ∧
      (x ≠ vF ∨ s.config.vfOrder = .flagLast → t.reg vF = f) :=
  ⟨_, hexec, s.advance.writeRF_eq_setRegs x r f, fun _ => s.advance.reg_writeRF_of_ne r f,
    s.advance.reg_writeRF_result r f, s.advance.reg_writeRF_flag r f⟩

/-- Settles O23: the two bytes written are the sum modulo 256 and the carry. -/
theorem addWritesCarry : Obligations.AddWritesCarry := by
  intro b x y s
  obtain ⟨t, hexec, hframe, hothers, hresult, hflag⟩ := exists_writeRF_of_exec (i := .addReg x y) (s := s) rfl
  refine ⟨decodeWord_encode b (i := .addReg x y) rfl, t, hexec, hframe, hothers, fun h => ?_, fun h => ?_⟩
  · rw [hresult h, sumByte_toNat]
  · rw [hflag h, carry, flagByte_decide]

/-- Settles O24: SUB and SUBN are one write with the operands exchanged. -/
theorem subtractWritesNotBorrow : Obligations.SubtractWritesNotBorrow := by
  intro b x y s
  refine ⟨decodeWord_encode b (i := .subReg x y) rfl, decodeWord_encode b (i := .subnReg x y) rfl, ?_⟩
  intro i minuend subtrahend hi
  have hwrite : exec i s = .next (s.advance.writeRF x (differenceByte minuend subtrahend)
      (flagByte (notBorrow minuend subtrahend))) := by
    obtain ⟨rfl, rfl, rfl⟩ | ⟨rfl, rfl, rfl⟩ := hi <;> rfl
  obtain ⟨t, hexec, hframe, hothers, hresult, hflag⟩ := exists_writeRF_of_exec hwrite
  refine ⟨t, hexec, hframe, hothers, fun h => ?_, fun h => ?_⟩
  · rw [hresult h, differenceByte_toInt]
  · rw [hflag h, notBorrow, flagByte_decide]

/-- Settles O25: both shifts write the shifted source and the bit shifted out of it, whichever register it is. -/
theorem shiftsWriteTheBitShiftedOut : Obligations.ShiftsWriteTheBitShiftedOut := by
  intro x y s source hsource i result out hi
  rw [← State.shiftOperand_eq_ite] at hsource
  obtain ⟨r, f, hwrite, hr, hf⟩ : ∃ r f, exec i s = .next (s.advance.writeRF x r f) ∧ r.toNat = result ∧
      f.toNat = out := by
    subst hsource
    obtain ⟨rfl, rfl, rfl⟩ | ⟨rfl, rfl, rfl⟩ := hi
    · exact ⟨_, _, rfl, shiftRightByte_toNat _, flagByte_shiftedOutRight_toNat _⟩
    · exact ⟨_, _, rfl, by rw [shiftLeftByte_toNat, Nat.mul_comm], flagByte_shiftedOutLeft_toNat _⟩
  obtain ⟨t, hexec, hframe, hothers, hresult, hflag⟩ := exists_writeRF_of_exec hwrite
  refine ⟨t, hexec, hframe, hothers, fun h => ?_, fun h => ?_⟩
  · rw [hresult h, hr]
  · rw [hflag h, hf]

end Sys2Proof.Machine
end

section
/-! The index register, the memory transfers and the flag slots: what a store at `I` leaves at each data address, the
decimal digits of a byte, and the instructions of 43_index_memory.md assembled from them. -/

namespace Sys2Proof.Machine

/-! ### Stores at the data addresses -/

/-- Each byte stored at `I` and on reads at its own data address (43_index_memory.md R188). -/
theorem State.readByte_writeBytes_dataAddress (s : State) {bs : List Byte} {k : Nat} (hk : k < bs.length) :
    (s.writeBytes (s.dataAddress 0) bs).readByte (s.dataAddress k) = bs.getD k 0 := by
  have hspan : s.dataAddress 0 ≤ s.dataAddress k ∧ s.dataAddress k < s.dataAddress 0 + bs.length :=
    ⟨Nat.add_le_add_left (Nat.zero_le k) _, Nat.add_lt_add_left hk _⟩
  have hoffset : s.dataAddress k - s.dataAddress 0 = k := Nat.add_sub_cancel_left _ _
  rw [State.readByte_writeBytes, if_pos hspan, hoffset]

/-- A store at `I` leaves every byte that is not at one of its data addresses. -/
theorem State.readByte_writeBytes_of_ne_dataAddress (s : State) {bs : List Byte} {a : Nat}
    (h : ∀ k < bs.length, a ≠ s.dataAddress k) :
    (s.writeBytes (s.dataAddress 0) bs).readByte a = s.readByte a := by
  by_contra hne
  obtain ⟨hfirst, hlast⟩ := State.mem_span_of_readByte_writeBytes_ne hne
  obtain ⟨k, rfl⟩ := Nat.exists_eq_add_of_le hfirst
  exact h k (Nat.lt_of_add_lt_add_left hlast) rfl

/-! ### The decimal digits of a byte -/

theorem bcdDigits_getD_lt (b : Byte) {k : Nat} (hk : k < 3) : ((bcdDigits b).getD k 0).toNat < 10 := by
  have hb := b.isLt
  interval_cases k <;> simp only [bcdDigits, List.getD_cons_zero, List.getD_cons_succ, BitVec.toNat_ofNat] <;> omega

/-- The digits, the most significant first, are those of the byte's value (43_index_memory.md R183). -/
theorem bcdDigits_value (b : Byte) :
    100 * ((bcdDigits b).getD 0 0).toNat + 10 * ((bcdDigits b).getD 1 0).toNat + ((bcdDigits b).getD 2 0).toNat =
      b.toNat := by
  have hb := b.isLt
  simp only [bcdDigits, List.getD_cons_zero, List.getD_cons_succ, BitVec.toNat_ofNat]
  omega

/-- Settles O29: the checked store of the byte's digits, read back at their data addresses. -/
theorem bcdStoresThreeDigits : Obligations.BcdStoresThreeDigits := by
  intro x s hfits
  have hdigit : ∀ k < 3, (s.advance.writeBytes (s.dataAddress 0) (bcdDigits (s.reg x))).readByte (s.dataAddress k) =
      (bcdDigits (s.reg x)).getD k 0 :=
    fun _ hk => s.advance.readByte_writeBytes_dataAddress (bs := bcdDigits (s.reg x)) hk
  refine ⟨_, guardRange_of_fits _ (.inr hfits), rfl, fun k hk => ?_, ?_,
    fun _ => s.advance.readByte_writeBytes_of_ne_dataAddress (bs := bcdDigits (s.reg x))⟩
  · rw [hdigit k hk]
    exact bcdDigits_getD_lt _ hk
  · rw [hdigit 0 (by decide), hdigit 1 (by decide), hdigit 2 (by decide)]
    exact bcdDigits_value _

/-! ### Bulk transfers and flag slots -/

/-- `I` past a bulk transfer wraps at 16 bits (43_index_memory.md R184, R185). -/
theorem State.indexPast_toNat (s : State) (x : VReg) :
    (s.indexPast x).toNat = (s.i.toNat + x.val + 1) % 65536 :=
  BitVec.toNat_ofNat _ _

/-- A bulk transfer whose last byte is outside memory takes the fault of the first that is. -/
theorem guardRange_bulk_of_leaves {s : State} (t : State) {x : VReg} (h : s.config.memSize ≤ s.i.toNat + x.val) :
    guardRange (s.dataAddress 0) (x.val + 1) s t =
      .next { s with status := .faulted (.outOfBounds (max s.i.toNat s.config.memSize)) } :=
  guardRange_of_leaves t (Nat.succ_pos _) (Nat.lt_succ_of_le h)

/-- A bulk store leaves every byte that is not at the data address of one of its registers (43_index_memory.md R184). -/
theorem State.readByte_writeBytes_regsUpTo_of_ne (s : State) {x : VReg} {a : Nat}
    (h : ∀ k : VReg, k ≤ x → a ≠ s.dataAddress k.val) :
    (s.writeBytes (s.dataAddress 0) (s.regsUpTo x)).readByte a = s.readByte a := by
  refine s.readByte_writeBytes_of_ne_dataAddress fun k hk => ?_
  rw [State.regsUpTo_length] at hk
  exact h ⟨k, hk.trans_le x.isLt⟩ (Nat.le_of_lt_succ hk)

/-- Settles O30: the range check decides between the store of V0 to VX with the advance of I and the fault. -/
theorem bulkStore : Obligations.BulkStore := fun b x s =>
  ⟨decodeWord_encode b (i := .ldMemVx x) rfl,
    fun hfits => ⟨_, guardRange_of_fits _ (.inr hfits), rfl, fun _ => s.advance.readByte_writeBytes_regsUpTo,
      fun _ => s.advance.readByte_writeBytes_regsUpTo_of_ne, s.indexPast_toNat x⟩,
    guardRange_bulk_of_leaves _⟩

/-- The writes of a bulk load change the register file and I, whatever the two are, and the advance changes pc. -/
theorem State.setI_setRegs_advance (s : State) (v : Vector Byte 16) (a : Word) :
    (s.advance.setRegs v).setI a = { s with v := v, i := a, pc := s.pc + 2 } := rfl

/-- Settles O31: the same range check decides between the copy into V0 to VX with the advance of I and the fault. -/
theorem bulkLoad : Obligations.BulkLoad := fun b x s =>
  ⟨decodeWord_encode b (i := .ldVxMem x) rfl,
    fun hfits => ⟨_, guardRange_of_fits _ (.inr hfits), s.setI_setRegs_advance _ _,
      fun k => copyUpTo_getElem x k _ s.v, s.indexPast_toNat x⟩,
    guardRange_bulk_of_leaves _⟩

/-- Settles O33: both transfers are the bulk copy, one from the registers to the slots and one back. -/
theorem flagSlotTransfers : Obligations.FlagSlotTransfers :=
  ⟨fun x s => ⟨_, rfl, rfl, fun k => copyUpTo_getElem x k s.reg s.flags⟩,
    fun x s => ⟨_, rfl, rfl, fun k => copyUpTo_getElem x k s.flagSlot s.v⟩⟩

/-! ### Writes of I -/

/-- A digit operand is a byte's value at most, whether masked or not (43_index_memory.md R182). -/
theorem State.digitOperand_lt (s : State) (x : VReg) : s.digitOperand x < 256 := by
  have hreg := (s.reg x).isLt
  unfold State.digitOperand
  split
  · exact (Nat.mod_le _ _).trans_lt hreg
  · exact hreg

/-- The glyph address of a byte never wraps: the largest is 5 times 255 (43_index_memory.md R182). -/
theorem glyphAddress_toNat {d : Nat} (hd : d < 256) : (glyphAddress d).toNat = 5 * d := by
  simp only [glyphAddress, Config.fontBase, Config.glyphBytes, BitVec.toNat_ofNat]
  omega

/-- Settles O28: each meaning writes I alone; only the sum of ADD I can wrap. -/
theorem indexWrites : Obligations.IndexWrites :=
  ⟨fun nnn _ => ⟨_, rfl, rfl, addressOperand_toNat nnn⟩,
    fun _ _ => ⟨_, rfl, rfl, BitVec.toNat_ofNat _ _⟩,
    fun x s => ⟨_, rfl, rfl, glyphAddress_toNat (s.digitOperand_lt x)⟩⟩

end Sys2Proof.Machine
end

section
/-! The framebuffer and the draw unit: which pixel a cell is, the equations of CLS and HIGH, and the draw read pixel by
pixel, from which the instructions of 44_display.md are assembled. -/

namespace Sys2Proof.Machine

/-! ### Pixels and cells -/

theorem State.pixel_iff {s : State} {px py : Nat} : s.pixel px py = true ↔ s.cell px py ∈ s.fb :=
  List.contains_iff_mem

@[simp] theorem State.pixel_clearScreen (s : State) (px py : Nat) : s.clearScreen.pixel px py = false := rfl

/-- Every cell of the grid is the cell of a pixel (10_state.md R47). -/
theorem State.exists_cell_eq {s : State} {k : Nat} (hk : k < s.width * s.height) :
    ∃ px < s.width, ∃ py < s.height, s.cell px py = k :=
  ⟨k % s.width, Nat.mod_lt _ s.width_pos, k / s.width, Nat.div_lt_of_lt_mul hk, Nat.div_add_mod' k s.width⟩

/-- Two well-formed framebuffers of one resolution with the same pixels are the same list. -/
theorem State.fb_eq_of_pixel_iff {s t : State} (hs : s.fbWf) (ht : t.fbWf) (hhires : t.hires = s.hires)
    (h : ∀ px < s.width, ∀ py < s.height, (t.pixel px py = true ↔ s.pixel px py = true)) : t.fb = s.fb := by
  have hwidth : t.width = s.width := congrArg (if · then 128 else 64) hhires
  have hheight : t.height = s.height := congrArg (if · then 64 else 32) hhires
  refine NatSet.ext_of_pairwise ht.1 hs.1 fun k => ?_
  by_cases hk : k < s.width * s.height
  · obtain ⟨px, hpx, py, hpy, rfl⟩ := State.exists_cell_eq hk
    simpa only [State.pixel_iff, State.cell, hwidth] using h px hpx py hpy
  · exact iff_of_false (fun hmem => hk (hwidth ▸ hheight ▸ ht.2 k hmem)) fun hmem => hk (hs.2 k hmem)

/-- A fault leaves the framebuffer, and an instruction that completes keeps its form. -/
theorem exec_keeps_fbWf {i : Instr} {s t : State} (h : exec i s = .next t) (hs : s.fbWf) : t.fbWf := by
  obtain ⟨f, rfl, -⟩ | hcompletes := exec_cases h
  · exact hs
  · exact hcompletes.keeps_fbWf hs

/-! ### Clear and resolution -/

/-- Settles O34: 00E0 is the encoding of CLS, which empties the set of lit cells after the advance. -/
theorem clearScreen : Obligations.ClearScreen :=
  ⟨fun b => decodeWord_encode b (i := .cls) rfl, fun s => ⟨_, rfl, rfl, s.advance.pixel_clearScreen⟩⟩

theorem exec_high_of_kept {s : State} (hhires : s.hires = true) (hkept : s.config.hiresReentryClears = false) :
    exec .high s = .next s.advance := by
  simp only [exec, execHigh, hhires, hkept, Bool.not_false, Bool.and_self, if_true]

theorem exec_high_of_cleared {s : State} (h : s.hires = false ∨ s.config.hiresReentryClears = true) :
    exec .high s = .next (s.advance.setHires true).clearScreen := by
  obtain h | h := h <;> simp [exec, execHigh, h]

/-- Settles O35: HIGH either advances with the picture kept or clears the new grid. -/
theorem enterHighResolution : Obligations.EnterHighResolution := by
  intro s
  by_cases hclears : s.hires = false ∨ s.config.hiresReentryClears = true
  · exact ⟨_, exec_high_of_cleared hclears, rfl, rfl, rfl, fun _ => State.pixel_clearScreen _,
      fun hhires hkept => by simp [hhires, hkept] at hclears⟩
  · obtain ⟨hhires, hkept⟩ : s.hires = true ∧ s.config.hiresReentryClears = false := by simpa using hclears
    have hframe : s.advance = { s with fb := s.fb, hires := true, pc := s.pc + 2 } := by rw [← hhires]; rfl
    exact ⟨_, exec_high_of_kept hhires hkept, hframe, if_pos hhires, if_pos hhires, fun h => absurd h hclears,
      fun _ _ => rfl⟩

/-! ### Sprite forms -/

theorem State.spriteForm_zero_of_zeroRows {s : State} (hhires : s.hires = false)
    (hform : s.config.loresDxy0 = .zeroRows) : s.spriteForm 0 = some ⟨8, 0, 1⟩ := by
  simp [State.spriteForm, hhires, hform]

theorem State.spriteForm_zero_of_fault {s : State} (hhires : s.hires = false)
    (hform : s.config.loresDxy0 = .fault) : s.spriteForm 0 = none := by
  simp [State.spriteForm, hhires, hform]

/-- The model selects the form that R202 and R206 table. -/
theorem State.spriteForm_of_formIs {s : State} {n cols rows bpr : Nat} (h : Claims.formIs s n cols rows bpr) :
    s.spriteForm n = some ⟨cols, rows, bpr⟩ := by
  obtain ⟨hrows, rfl, rfl, rfl⟩ | ⟨rfl, hwide, rfl, rfl, rfl⟩ | ⟨rfl, hhires, hform, rfl, rfl, rfl⟩ := h
  · exact s.spriteForm_of_rows hrows
  · exact State.spriteForm_zero_of_wide hwide
  · exact State.spriteForm_zero_of_zeroRows hhires hform

/-- A draw whose sprite is empty or inside memory goes on to draw it (44_display.md R202). -/
theorem exec_drw_of_fits {s : State} {n : Nat} {f : SpriteForm} (x y : VReg) (hform : s.spriteForm n = some f)
    (hfits : f.size = 0 ∨ s.i.toNat + f.size ≤ s.config.memSize) :
    exec (.drw x y n) s = .next (s.advance.draw x y f) := by
  simp only [exec, execDrw, hform]
  exact guardRange_of_fits _ hfits

/-- A row count that selects no form faults with the instruction's own word (44_display.md R202, R206). -/
theorem exec_drw_of_no_form {s : State} {n : Nat} (x y : VReg) (hform : s.spriteForm n = none) :
    exec (.drw x y n) s = .next { s with status := .faulted (.unmodelledForm (encode (.drw x y n))) } := by
  simp only [exec, execDrw, hform, raise_eq]

/-! ### Sprite bits and flags -/

/-- A sprite bit as the claims read it: its byte divided down to it (44_display.md R202, R205). -/
theorem State.spriteBit_iff (s : State) (f : SpriteForm) (r c : Nat) : s.spriteBit f r c = true ↔
    (s.readByte (s.i.toNat + r * f.bytesPerRow + c / 8)).toNat / 2 ^ (7 - c % 8) % 2 = 1 := by
  rw [State.spriteBit, State.dataAddress, ← Nat.add_assoc, BitVec.getLsbD, Nat.testBit_eq_decide_div_mod_eq,
    decide_eq_true_iff]

theorem flagByte_eq_zero_or_one (b : Bool) : flagByte b = 0 ∨ flagByte b = 1 := by
  cases b <;> decide

theorem flagByte_eq_one_iff {b : Bool} : flagByte b = 1 ↔ b = true := by
  cases b <;> decide

/-! ### The pixels under a sprite -/

section
variable {s : State} {x y : VReg} {f : SpriteForm} {px py : Nat}

/-- The cells that a draw flips are those of the pixels under the sprite. -/
theorem State.cell_mem_spriteCells_iff (hpx : px < s.width) :
    s.cell px py ∈ s.spriteCells (s.reg x).toNat (s.reg y).toNat f ↔
      Claims.underSprite s x y f.cols f.rows f.bytesPerRow px py := by
  simp only [State.mem_spriteCells, Claims.underSprite, State.spriteBit_iff]
  constructor
  · rintro ⟨r, hr, c, hc, hbit, hcell⟩
    obtain ⟨hx, hy⟩ := State.cell_inj (Nat.mod_lt _ s.width_pos) hpx hcell
    exact ⟨r, hr, c, hc, hx.symm, hy.symm, hbit⟩
  · rintro ⟨r, hr, c, hc, rfl, rfl, hbit⟩
    exact ⟨r, hr, c, hc, hbit, rfl⟩

/-- A property of some drawn cell is one of some pixel under the sprite. -/
theorem State.exists_mem_spriteCells_iff {P : Nat → Prop} :
    (∃ k ∈ s.spriteCells (s.reg x).toNat (s.reg y).toNat f, P k) ↔ ∃ px < s.width, ∃ py < s.height,
      Claims.underSprite s x y f.cols f.rows f.bytesPerRow px py ∧ P (s.cell px py) := by
  constructor
  · rintro ⟨k, hk, hP⟩
    obtain ⟨r, -, c, -, -, rfl⟩ := (State.mem_spriteCells _ _ _ _ _).1 hk
    have hpx := Nat.mod_lt ((s.reg x).toNat + c) s.width_pos
    exact ⟨_, hpx, _, Nat.mod_lt _ s.height_pos, (State.cell_mem_spriteCells_iff hpx).1 hk, hP⟩
  · rintro ⟨px, hpx, py, -, hunder, hP⟩
    exact ⟨_, (State.cell_mem_spriteCells_iff hpx).2 hunder, hP⟩

/-! ### What a draw leaves -/

theorem State.reg_draw_of_ne {r : VReg} (hr : r ≠ vF) : (s.draw x y f).reg r = s.reg r :=
  (State.reg_setReg _ _ _ _).trans (if_neg hr)

theorem State.reg_draw_vF :
    (s.draw x y f).reg vF = flagByte (blit s.fb (s.spriteCells (s.reg x).toNat (s.reg y).toNat f)).2 :=
  State.setReg_reg_self _ _ _

/-- Each pixel of the grid is flipped exactly when it lies under a 1 bit of the sprite (44_display.md R202, R204). -/
theorem State.pixel_draw_iff (hcols : f.cols ≤ 16) (hrows : f.rows ≤ 16) (hpx : px < s.width) :
    (s.draw x y f).pixel px py = true ↔
      ¬(s.pixel px py = true ↔ Claims.underSprite s x y f.cols f.rows f.bytesPerRow px py) := by
  have hcells := s.spriteCells_nodup (s.reg x).toNat (s.reg y).toNat f hcols hrows
  have hflip := (blit_spec s.fb _ hcells).1 (s.cell px py)
  refine State.pixel_iff.trans (hflip.trans ?_)
  rw [State.pixel_iff, ← State.cell_mem_spriteCells_iff hpx]
  split <;> tauto

/-- The collision flag reports a lit pixel under the sprite (44_display.md R203). -/
theorem State.reg_draw_vF_eq_one_iff (hcols : f.cols ≤ 16) (hrows : f.rows ≤ 16) :
    (s.draw x y f).reg vF = 1 ↔ ∃ px < s.width, ∃ py < s.height,
      Claims.underSprite s x y f.cols f.rows f.bytesPerRow px py ∧ s.pixel px py = true := by
  have hcells := s.spriteCells_nodup (s.reg x).toNat (s.reg y).toNat f hcols hrows
  rw [State.reg_draw_vF, flagByte_eq_one_iff, (blit_spec s.fb _ hcells).2, State.exists_mem_spriteCells_iff]
  simp only [State.pixel_iff]

end

/-- Settles O36: the blit flips the cells of the pixels under the sprite, which never overlaps itself. -/
theorem drawFlipsPixelsUnderTheSprite : Obligations.DrawFlipsPixelsUnderTheSprite := by
  intro x y n cols rows bpr s hn hformIs hfits
  have hform := State.spriteForm_of_formIs hformIs
  obtain ⟨hcols, hrows⟩ := State.spriteForm_bounds hn hform
  have hsize : SpriteForm.size ⟨cols, rows, bpr⟩ = 0 ∨
      s.i.toNat + SpriteForm.size ⟨cols, rows, bpr⟩ ≤ s.config.memSize :=
    hfits.symm.imp_left fun hzero => by rw [SpriteForm.size, hzero, Nat.zero_mul]
  exact ⟨_, exec_drw_of_fits x y hform hsize, rfl, fun _ => State.reg_draw_of_ne (s := s.advance),
    fun _ hpx _ _ => State.pixel_draw_iff (s := s.advance) hcols hrows hpx,
    State.reg_draw_vF (s := s.advance) ▸ flagByte_eq_zero_or_one _,
    State.reg_draw_vF_eq_one_iff (s := s.advance) hcols hrows⟩

/-! ### Drawing twice -/

/-- A sprite lies where the operand registers put it, whatever the framebuffer and the other registers hold. -/
theorem underSprite_congr {s t : State} {x y : VReg} {fb : List Nat} {v : Vector Byte 16} {pc : Word}
    (ht : t = { s with fb := fb, v := v, pc := pc }) (hx : t.reg x = s.reg x) (hy : t.reg y = s.reg y)
    (cols rows bpr px py : Nat) :
    Claims.underSprite t x y cols rows bpr px py ↔ Claims.underSprite s x y cols rows bpr px py := by
  simp only [Claims.underSprite, hx, hy]
  subst ht
  rfl

/-- Settles O37: both draws flip the same pixels, and what the second finds lit under the sprite the first found
unlit. -/
theorem drawingTwiceRestoresTheFramebuffer : Obligations.DrawingTwiceRestoresTheFramebuffer := by
  intro x y n cols rows bpr s t hn hwf hform hfits hexec hx hy
  obtain ⟨t', hexec', ht, -, hpixels, -, -⟩ := drawFlipsPixelsUnderTheSprite x y n cols rows bpr s hn hform hfits
  cases hexec'.symm.trans hexec
  have hunder := underSprite_congr ht hx hy cols rows bpr
  have hwft : t.fbWf := exec_keeps_fbWf hexec hwf
  have hform' : Claims.formIs t n cols rows bpr := by rw [ht]; exact hform
  have hfits' : t.i.toNat + rows * bpr ≤ t.config.memSize ∨ rows = 0 := by rw [ht]; exact hfits
  have hwidth : t.width = s.width := by rw [ht]; rfl
  have hheight : t.height = s.height := by rw [ht]; rfl
  obtain ⟨u, hexecu, hu, -, hpixelsu, -, hflag⟩ :=
    drawFlipsPixelsUnderTheSprite x y n cols rows bpr t hn hform' hfits'
  simp only [hwidth, hheight, hunder] at hpixelsu hflag
  have hhires : u.hires = s.hires := by rw [hu, ht]
  refine ⟨u, hexecu, State.fb_eq_of_pixel_iff hwf (exec_keeps_fbWf hexecu hwft) hhires fun px hpx py hpy => ?_,
    hflag.trans ?_⟩
  · rw [hpixelsu px hpx py hpy, hpixels px hpx py hpy]
    tauto
  · refine exists_congr fun px => and_congr_right fun hpx => exists_congr fun py => and_congr_right fun hpy =>
      and_congr_right fun hsprite => ?_
    rw [hpixels px hpx py hpy, ← Bool.not_eq_true]
    tauto

/-! ### DXY0 in low resolution -/

/-- A sprite of no rows draws nothing and collides with nothing (44_display.md R206). -/
theorem State.draw_of_no_rows (s : State) (x y : VReg) (cols bpr : Nat) :
    s.draw x y ⟨cols, 0, bpr⟩ = s.setReg vF 0 := rfl

/-- Settles O38: there is no form to draw under FAULT, and under ZERO_ROWS one without rows. -/
theorem lowResolutionDxy0 : Obligations.LowResolutionDxy0 := by
  intro x y s hhires
  refine ⟨fun hfault => exec_drw_of_no_form x y (State.spriteForm_zero_of_fault hhires hfault), fun hzero => ?_⟩
  have hexec := exec_drw_of_fits x y (State.spriteForm_zero_of_zeroRows hhires hzero) (.inl rfl)
  rw [State.draw_of_no_rows] at hexec
  exact ⟨_, hexec, rfl, fun r => s.advance.reg_setReg vF r 0⟩

end Sys2Proof.Machine
end

section
/-! Timers and the keypad: the timer transfers, the key skips, and FX0A from its wait to the key-down that ends it. -/

namespace Sys2Proof.Machine

/-- Settles O39: each word is its transfer's encoding, and each transfer writes its one destination after the advance. -/
theorem timerTransfers : Obligations.TimerTransfers := fun b x s =>
  ⟨⟨decodeWord_encode b (i := .ldVxDt x) rfl, _, rfl, rfl, fun r => s.advance.reg_setReg x r s.dt⟩,
    ⟨decodeWord_encode b (i := .ldDtVx x) rfl, rfl⟩, decodeWord_encode b (i := .ldStVx x) rfl, rfl⟩

theorem State.keyHeld_iff {s : State} {k : Nat} : s.keyHeld k = true ↔ k ∈ s.keys := List.contains_iff_mem

/-- Settles O40: the tested code is the key operand, and each skip is an advance by 4 or 2 on whether it is held. -/
theorem keySkips : Obligations.KeySkips := by
  intro x s k hk
  have hcode : s.keyOperand x = k := hk.symm
  constructor
  · simp only [exec, execSkp, hcode, State.skipIf_advance, State.keyHeld_iff]
  · simp only [exec, execSknp, hcode, State.skipIf_advance, Bool.not_eq_true', ← Bool.not_eq_true, State.keyHeld_iff,
      ite_not]

/-! ### The wait for a key -/

/-- A step while awaiting input changes nothing (60_exceptions.md R245). -/
theorem step_of_awaiting {s : State} {x : VReg} (hwait : s.status = .awaitingInput x) : step s = .next s := by
  simp only [step, hwait]

/-- The key-down that ends a wait: the code is held and written to the latched register (60_exceptions.md R252). -/
theorem command_setKeyDown_of_awaiting {s : State} {x : VReg} {k : Nat} (hk : k < 16)
    (hwait : s.status = .awaitingInput x) :
    command (.setKeyDown k) s =
      (((s.setKeys (NatSet.insert k s.keys)).setReg x (BitVec.ofNat 8 k)).setStatus .ready, .ok) := by
  have hdeliver := State.deliverKey_of_awaiting (s := s.setKeys (NatSet.insert k s.keys)) k hwait
  rw [command, State.setKeyDown, if_pos hk, hdeliver]

/-- Settles O41: FX0A leaves a waiting state, which steps to itself until the key-down writes the latched register. -/
theorem blockingKeyRead : Obligations.BlockingKeyRead := by
  intro b x s steps k hk
  refine ⟨decodeWord_encode b (i := .ldVxK x) rfl, _, rfl, rfl,
    runCommands_step_of_fixed (step_of_awaiting rfl) steps, _, command_setKeyDown_of_awaiting hk rfl, rfl,
    fun r => ?_, fun j => NatSet.mem_insert k j _⟩
  have hcode : (BitVec.ofNat 8 k).toNat = k := Nat.mod_eq_of_lt (hk.trans (by decide))
  rw [State.reg_setStatus, State.reg_setReg, State.reg_setKeys, apply_ite BitVec.toNat, hcode]

end Sys2Proof.Machine
end

section
/-! Faults and the state machine, one step at a time: what the `step` command leaves and answers in each status, and the
three ways a step in `ready` ends. -/

namespace Sys2Proof.Machine

/-! ### The host's step command by the outcome of the step -/

theorem command_step_of_next {s t : State} (h : step s = .next t) : command .step s = (t, stepResponse t) := by
  rw [command, State.stepCommand, h]

theorem command_step_of_fault {s : State} {f : Fault} (h : step s = .fault f) : command .step s = (s, .err f) := by
  rw [command, State.stepCommand, h]

theorem command_step_of_refused {s : State} {r : Refusal} (h : step s = .refused r) :
    command .step s = (s, .refused r) := by
  rw [command, State.stepCommand, h]

theorem stepResponse_of_faulted {t : State} {f : Fault} (h : t.status = .faulted f) : stepResponse t = .err f := by
  simp only [stepResponse, h]

theorem stepResponse_of_ready {t : State} (h : t.status = .ready) : stepResponse t = .ok := by
  simp only [stepResponse, h]

theorem stepResponse_of_awaiting {t : State} {x : VReg} (h : t.status = .awaitingInput x) : stepResponse t = .ok := by
  simp only [stepResponse, h]

/-! ### Steps outside `ready` -/

theorem step_of_faulted {s : State} {f : Fault} (h : s.status = .faulted f) : step s = .fault f := by
  simp only [step, h]

theorem step_of_unloaded {s : State} (h : s.status = .unloaded) : step s = .refused .notLoaded := by
  simp only [step, h]

/-- Settles O12: the step answers the same state, whose status is no fault. -/
theorem awaitingStepIsNoOp : Obligations.AwaitingStepIsNoOp := fun s _ hwait => by
  have hstep : step s = .next s := step_of_awaiting hwait
  exact ⟨hstep, by rw [command_step_of_next hstep, stepResponse_of_awaiting hwait]⟩

/-- Settles O13: neither status answers a next state, so the host keeps the state it had. -/
theorem stepStopsInFaultedAndUnloaded : Obligations.StepStopsInFaultedAndUnloaded :=
  ⟨fun _ _ hfaulted => ⟨step_of_faulted hfaulted, command_step_of_fault (step_of_faulted hfaulted)⟩,
    fun _ hunloaded => ⟨step_of_unloaded hunloaded, command_step_of_refused (step_of_unloaded hunloaded)⟩⟩

/-- The step command outside `ready` changes nothing (60_exceptions.md R244, R245, R247). -/
theorem command_step_of_not_ready {s : State} (h : s.status ≠ .ready) : (command .step s).1 = s := by
  obtain ⟨t, hstep, ht⟩ | ⟨-, ht⟩ := s.stepCommand_state
  · exact ht.trans (step_not_ready h hstep)
  · exact ht

/-! ### Steps in `ready` -/

/-- A step in `ready` answers a next state: it takes a fault or runs an instruction. -/
theorem step_answers_of_ready {s : State} (hready : s.status = .ready) : ∃ t, step s = .next t := by
  obtain ⟨f, hstep, -⟩ | ⟨-, i, -, -, hstep, -⟩ := step_ready_cases hready
  · exact ⟨_, hstep⟩
  · rw [hstep]
    exact exec_answers i s

/-- 60_exceptions.md R246: the three ways a step in `ready` ends. -/
theorem step_status_of_ready {s t : State} (hready : s.status = .ready) (hstep : step s = .next t) :
    t.status = .ready ∨ (∃ x, t.status = .awaitingInput x) ∨ ∃ f, t.status = .faulted f := by
  obtain rfl | ⟨-, f, rfl, -⟩ | ⟨-, i, hi, -⟩ := step_cases hstep
  · exact .inl hready
  · exact .inr (.inr ⟨f, rfl⟩)
  · obtain hsame | ⟨x, -, hwait⟩ := hi.fieldsOwned.status
    · exact .inl (hsame.trans hready)
    · exact .inr (.inl ⟨x, hwait⟩)

/-- An instruction that completes in `ready` ends in no fault. -/
theorem Completes.status_ne_faulted {i : Instr} {s t : State} (h : Completes i s t) (hready : s.status = .ready)
    (f : Fault) : t.status ≠ .faulted f := by
  obtain hsame | ⟨x, -, hwait⟩ := h.fieldsOwned.status
  · simp [hsame, hready]
  · simp [hwait]

/-- 60_exceptions.md R241: a step in `ready` that ends in a fault did nothing but take it. -/
theorem step_eq_takeFault {s t : State} {f : Fault} (hready : s.status = .ready) (hstep : step s = .next t)
    (hfault : t.status = .faulted f) : t = s.takeFault f := by
  obtain rfl | ⟨-, g, rfl, -⟩ | ⟨-, i, hi, -⟩ := step_cases hstep
  · cases hready.symm.trans hfault
  · cases hfault
    rfl
  · exact absurd hfault (hi.status_ne_faulted hready f)

/-- 60_exceptions.md R246: only FX0A begins a wait, and it waits for its own register. -/
theorem step_awaiting_iff {s t : State} (hready : s.status = .ready) (hstep : step s = .next t) (x : VReg) :
    t.status = .awaitingInput x ↔ ∃ w, s.fetch = .ok w ∧ decodeWord s.config.sysAsNop w = .ok (.ldVxK x) := by
  constructor
  · intro hwait
    obtain ⟨f, hf, -⟩ | ⟨w, i, hfetch, hdecode, hexec, -⟩ := step_ready_cases hready
    · rw [hf] at hstep
      cases hstep
      cases hwait
    · obtain ⟨f, rfl, -⟩ | hi := exec_cases (hexec.symm.trans hstep)
      · cases hwait
      · obtain hsame | ⟨y, rfl, hy⟩ := hi.fieldsOwned.status
        · cases hwait.symm.trans (hsame.trans hready)
        · cases hwait.symm.trans hy
          exact ⟨w, hfetch, hdecode⟩
  · rintro ⟨w, hfetch, hdecode⟩
    rw [step_of_decodes hready hfetch hdecode] at hstep
    cases hstep
    rfl

/-- Settles O10: a step that ends in a fault is the taking of it, and the answer is read from its status. -/
theorem faultingStepChangesOnlyStatus : Obligations.FaultingStepChangesOnlyStatus := fun _ _ _ hready hstep hfault =>
  ⟨step_eq_takeFault hready hstep hfault, by rw [command_step_of_next hstep, stepResponse_of_faulted hfault]⟩

/-- Settles O11: a step in `ready` goes on, and its answer is read from which of the three statuses it leaves. -/
theorem readyStepEndsInOneOfThreeWays : Obligations.ReadyStepEndsInOneOfThreeWays := by
  intro s hready
  obtain ⟨t, hstep⟩ := step_answers_of_ready hready
  refine ⟨t, hstep, ?_, step_awaiting_iff hready hstep⟩
  rw [command_step_of_next hstep]
  obtain hr | ⟨x, hx⟩ | ⟨f, hf⟩ := step_status_of_ready hready hstep
  · exact .inl ⟨hr, by rw [stepResponse_of_ready hr]⟩
  · exact .inr (.inl ⟨x, hx, by rw [stepResponse_of_awaiting hx]⟩)
  · exact .inr (.inr ⟨f, hf, by rw [stepResponse_of_faulted hf]⟩)

end Sys2Proof.Machine
end

section
/-! The other host commands and runs of them: timer ticks, key events, the table of transitions, and the runs that a
faulted or a waiting core ignores but for its timers and held keys. -/

namespace Sys2Proof.Machine

/-! ### Timer ticks -/

theorem countDown_toNat (b : Byte) : (countDown b).toNat = b.toNat - 1 :=
  Nat.mod_eq_of_lt (by omega)

/-- One tick and then `n` more. -/
theorem countDown_toNat_sub (b : Byte) (n : Nat) : (countDown b).toNat - n = b.toNat - (n + 1) := by
  rw [countDown_toNat, Nat.sub_sub, Nat.add_comm]

/-- Settles O42: by induction on the ticks, each of which takes 1 off both timers unless they are 0. -/
theorem timersCountDownToZero : Obligations.TimersCountDownToZero := by
  intro n
  induction n with
  | zero =>
    rintro s _ rfl
    exact ⟨rfl, rfl, rfl⟩
  | succ n ih =>
    intro s t ht
    obtain ⟨hframe, hdt, hst⟩ := ih s.updateTimers t ht
    exact ⟨hframe, hdt.trans (countDown_toNat_sub s.dt n), hst.trans (countDown_toNat_sub s.st n)⟩

/-! ### Key events -/

/-- A key-down outside a wait only adds to the held keys (60_exceptions.md R252). -/
theorem command_setKeyDown_of_not_awaiting {s : State} {k : Nat} (hk : k < 16)
    (hwait : ∀ x, s.status ≠ .awaitingInput x) :
    command (.setKeyDown k) s = (s.setKeys (NatSet.insert k s.keys), .ok) := by
  have hdeliver := State.deliverKey_of_not_awaiting (s := s.setKeys (NatSet.insert k s.keys)) k hwait
  rw [command, State.setKeyDown, if_pos hk, hdeliver]

theorem command_setKeyUp_of_lt {s : State} {k : Nat} (hk : k < 16) :
    command (.setKeyUp k) s = (s.setKeys (NatSet.erase k s.keys), .ok) := by
  rw [command, State.setKeyUp, if_pos hk]

theorem command_setKeyDown_of_le {s : State} {k : Nat} (hk : 16 ≤ k) :
    command (.setKeyDown k) s = (s, .refused (.keyOutOfRange k)) := by
  rw [command, State.setKeyDown, if_neg (Nat.not_lt.2 hk)]

theorem command_setKeyUp_of_le {s : State} {k : Nat} (hk : 16 ≤ k) :
    command (.setKeyUp k) s = (s, .refused (.keyOutOfRange k)) := by
  rw [command, State.setKeyUp, if_neg (Nat.not_lt.2 hk)]

/-- Settles O43: each event is one insertion into or erasure from the held keys, or a refusal. -/
theorem keyEvents : Obligations.KeyEvents := fun s k =>
  ⟨fun hk hwait => ⟨_, command_setKeyDown_of_not_awaiting hk hwait, rfl, fun j => NatSet.mem_insert k j s.keys⟩,
    fun hk => ⟨_, command_setKeyUp_of_lt hk, rfl, fun j => NatSet.mem_erase k j s.keys⟩,
    fun hk => ⟨command_setKeyDown_of_le hk, command_setKeyUp_of_le hk⟩⟩

/-! ### The table of transitions (60_exceptions.md R250) -/

theorem command_load_status (bytes : List Byte) (offset : Nat) (s : State) :
    (command (.load bytes offset) s).1.status =
      if offset + bytes.length ≤ s.config.memSize then .ready else s.status := by
  rw [command]
  split
  · next hfits =>
    rw [State.load_of_fits hfits]
    rfl
  · next hfits => rw [State.load_of_oversize (Nat.lt_of_not_le hfits)]

theorem command_setKeyUp_status (k : Nat) (s : State) : (command (.setKeyUp k) s).1.status = s.status := by
  obtain hk | hk := Nat.lt_or_ge k 16
  · rw [command_setKeyUp_of_lt hk, State.setKeys_status]
  · rw [command_setKeyUp_of_le hk]

/-- Settles O51: each row of the table is the equation of its command in that status. -/
theorem statusTransitions : Obligations.StatusTransitions := by
  intro s
  refine ⟨fun bytes offset => command_load_status bytes offset s,
    fun hready => congrArg State.status (command_step_of_not_ready hready), fun hready => ?_,
    fun k hk => ⟨fun x hwait => ?_, fun hwait => ?_⟩, fun k => command_setKeyUp_status k s, rfl⟩
  · obtain ⟨t, hstep⟩ := step_answers_of_ready hready
    rw [command_step_of_next hstep]
    exact step_status_of_ready hready hstep
  · rw [command_setKeyDown_of_awaiting hk hwait, State.reg_setStatus, State.setReg_reg_self]
    exact ⟨rfl, Nat.mod_eq_of_lt (hk.trans (by decide))⟩
  · rw [command_setKeyDown_of_not_awaiting hk hwait, State.setKeys_status]

/-! ### Runs that a core which does not run ignores -/

/-- The two states differ in the timers and the held keys at most. -/
def State.SameButTimersAndKeys (s t : State) : Prop := t = { s with dt := t.dt, st := t.st, keys := t.keys }

theorem State.SameButTimersAndKeys.refl (s : State) : s.SameButTimersAndKeys s := rfl

theorem State.SameButTimersAndKeys.trans {s t u : State} (hst : s.SameButTimersAndKeys t)
    (htu : t.SameButTimersAndKeys u) : s.SameButTimersAndKeys u := by
  unfold State.SameButTimersAndKeys at hst htu ⊢
  rw [hst] at htu
  exact htu

theorem State.SameButTimersAndKeys.status_eq {s t : State} (h : s.SameButTimersAndKeys t) : t.status = s.status := by
  rw [State.SameButTimersAndKeys] at h
  rw [h]

theorem State.SameButTimersAndKeys.config_eq {s t : State} (h : s.SameButTimersAndKeys t) : t.config = s.config := by
  rw [State.SameButTimersAndKeys] at h
  rw [h]

/-- Outside `ready`, every command but a load that fits and a key-down that ends a wait leaves all but the timers and the
held keys. -/
theorem command_sameButTimersAndKeys {c : Command} {s : State} (hready : s.status ≠ .ready)
    (hload : ∀ bytes offset, c = .load bytes offset → s.config.memSize < offset + bytes.length)
    (hkey : ∀ k < 16, c = .setKeyDown k → ∀ x, s.status ≠ .awaitingInput x) :
    s.SameButTimersAndKeys (command c s).1 := by
  cases c with
  | load bytes offset =>
    rw [command, State.load_of_oversize (hload bytes offset rfl)]
    exact .refl s
  | step =>
    rw [command_step_of_not_ready hready]
    exact .refl s
  | updateTimers => rfl
  | setKeyDown k =>
    obtain hk | hk := Nat.lt_or_ge k 16
    · rw [command_setKeyDown_of_not_awaiting hk (hkey k hk rfl)]
      rfl
    · rw [command_setKeyDown_of_le hk]
      exact .refl s
  | setKeyUp k =>
    obtain hk | hk := Nat.lt_or_ge k 16
    · rw [command_setKeyUp_of_lt hk]
      rfl
    · rw [command_setKeyUp_of_le hk]
      exact .refl s

/-- The same of every run of such commands: status and parameters stay, so what holds of the first command holds of all. -/
theorem runCommands_sameButTimersAndKeys {cs : List Command} {s : State} (hready : s.status ≠ .ready)
    (hload : ∀ bytes offset, .load bytes offset ∈ cs → s.config.memSize < offset + bytes.length)
    (hkey : ∀ k < 16, .setKeyDown k ∈ cs → ∀ x, s.status ≠ .awaitingInput x) :
    s.SameButTimersAndKeys (runCommands cs s).1 := by
  refine runCommands_keeps (P := s.SameButTimersAndKeys) (fun c hc u hu => hu.trans ?_) (.refl s)
  refine command_sameButTimersAndKeys (hu.status_eq ▸ hready) ?_ ?_
  · rintro bytes offset rfl
    exact hu.config_eq ▸ hload bytes offset hc
  · rintro k hk rfl
    exact hu.status_eq ▸ hkey k hk hc

/-- Settles O52: a faulted core neither runs nor waits, so no key-down changes its registers. -/
theorem faultIsTerminalUntilLoad : Obligations.FaultIsTerminalUntilLoad := fun _ _ _ hfaulted hload =>
  runCommands_sameButTimersAndKeys (by simp [hfaulted]) hload (by simp [hfaulted])

/-- Settles O53: a waiting core does not run, and the run holds no key-down that would end the wait. -/
theorem waitEndsOnlyByKeyDownOrLoad : Obligations.WaitEndsOnlyByKeyDownOrLoad := fun _ _ _ hwait hkey hload =>
  runCommands_sameButTimersAndKeys (by simp [hwait]) hload fun k hk hc => absurd hk (Nat.not_lt.2 (hkey k hc))

end Sys2Proof.Machine
end

section
/-! What a load leaves: nothing when it does not fit, and otherwise the reset values, the font and the program. -/

namespace Sys2Proof.Machine

/-- Settles O44: the size check comes before any write. -/
theorem oversizeLoadChangesNothing : Obligations.OversizeLoadChangesNothing := fun _ _ _ hbig =>
  State.load_of_oversize hbig

/-! ### The loaded state, read field by field -/

theorem State.loadProgram_pc_toNat (s : State) (bytes : List Byte) {offset : Nat} (h : offset < 65536) :
    (s.loadProgram bytes offset).pc.toNat = offset :=
  Nat.mod_eq_of_lt h

@[simp] theorem State.reg_loadProgram (s : State) (bytes : List Byte) (offset : Nat) (x : VReg) :
    (s.loadProgram bytes offset).reg x = 0 :=
  Vector.getElem_replicate x.isLt

@[simp] theorem State.flagSlot_loadProgram (s : State) (bytes : List Byte) (offset : Nat) (x : VReg) :
    (s.loadProgram bytes offset).flagSlot x = 0 :=
  Vector.getElem_replicate x.isLt

/-- Cleared memory lists no byte, so what the program does not cover reads as after a reset. -/
theorem State.readByte_loadProgram (s : State) (bytes : List Byte) (offset a : Nat) :
    (s.loadProgram bytes offset).readByte a =
      if offset ≤ a ∧ a < offset + bytes.length then bytes.getD (a - offset) 0 else s.config.resetByte a :=
  s.cleared.readByte_writeBytes offset a bytes

theorem State.readByte_loadProgram_program (s : State) {bytes : List Byte} (offset : Nat) {k : Nat}
    (hk : k < bytes.length) : (s.loadProgram bytes offset).readByte (offset + k) = bytes.getD k 0 := by
  rw [State.readByte_loadProgram, if_pos ⟨Nat.le_add_right offset k, Nat.add_lt_add_left hk offset⟩,
    Nat.add_sub_cancel_left]

theorem State.readByte_loadProgram_outside (s : State) {bytes : List Byte} {offset a : Nat}
    (ha : a < offset ∨ offset + bytes.length ≤ a) : (s.loadProgram bytes offset).readByte a = s.config.resetByte a := by
  rw [State.readByte_loadProgram, if_neg (by omega)]

/-- Settles O45: a load that fits writes the program into the cleared state, field by field. -/
theorem loadResetsAndCopies : Obligations.LoadResetsAndCopies := by
  intro bytes offset s hfits hoffset
  refine ⟨s.loadProgram bytes offset, State.load_of_fits hfits, s.loadProgram_pc_toNat bytes hoffset,
    fun k hk => s.readByte_loadProgram_program offset hk, fun a ha => s.readByte_loadProgram_outside ha, rfl,
    s.reg_loadProgram bytes offset, s.flagSlot_loadProgram bytes offset, rfl, rfl, rfl, rfl, rfl, fun _ _ => rfl,
    rfl, rfl, rfl⟩

/-! ### What the loaded state depends on -/

/-- Of the state before, a load keeps the parameters and the count of drawn bytes alone (log 17). -/
theorem State.loadProgram_congr {s s' : State} (bytes : List Byte) (offset : Nat) (hconfig : s'.config = s.config)
    (hdraws : s'.drawCount = s.drawCount) : s'.loadProgram bytes offset = s.loadProgram bytes offset := by
  have hmem : (s'.loadProgram bytes offset).mem = (s.loadProgram bytes offset).mem :=
    congrArg (fun c => Memory.writeSpan c [] offset bytes) hconfig
  exact State.ext rfl hmem rfl rfl rfl rfl rfl rfl rfl rfl rfl rfl hdraws hconfig

/-- Settles O46: a load changes neither of the two fields that its result depends on, so the second load repeats the
first. -/
theorem loadIsIdempotent : Obligations.LoadIsIdempotent := by
  intro bytes offset s s' hconfig hdraws hfits
  have hload : ∀ u : State, u.config = s.config → u.drawCount = s.drawCount →
      command (.load bytes offset) u = (s.loadProgram bytes offset, .ok) := by
    intro u hc hd
    rw [command, State.load_of_fits (hc ▸ hfits), State.loadProgram_congr bytes offset hc hd]
  have hfirst := hload s rfl rfl
  have hsecond := hload (s.loadProgram bytes offset) rfl rfl
  refine ⟨(hload s' hconfig hdraws).trans hfirst.symm, ?_⟩
  simp only [runCommands, hfirst, hsecond]

end Sys2Proof.Machine
end
